-- ==== Sys2Proof/Word.lean ====
section
/-! DEFINITION. The words of the block: a byte (20_memory.md R54, only where a word is laid out as bytes), the
32-bit request word (30_encoding.md R80), the 12-bit column mask (R71) and the opaque keycode (R79). -/

namespace Sys2Proof

/-- A byte of a serialised request word (20_memory.md R54). -/
abbrev Byte := BitVec 8

/-- An operation-request word W, 32 bits (30_encoding.md R80, R82). -/
abbrev ReqWord := BitVec 32

/-- A 12-bit column mask, bit c = column c (30_encoding.md R71). -/
abbrev Mask := BitVec 12

/-- A keycode: an opaque value of KC_BITS bits the block passes on unchanged (30_encoding.md R79).
A number below 2^KC_BITS, since KC_BITS is a parameter; the block does no arithmetic on it. -/
abbrev Keycode := Nat

/-- An encoded layout entry of ENTRY_BITS bits (30_encoding.md R77), a number below 2^ENTRY_BITS. -/
abbrev Entry := Nat

end Sys2Proof
end

