-- ==== Sys2Proof/Syntax.lean ====
section
/-! DEFINITION. The eight operations of the block (30_encoding.md R80, opcode_table.json), with bounded index types
(60_exceptions.md R231), the names they use (10_state.md R23, R24), and the stimulus lines (30_encoding.md R83, R84). -/

namespace Sys2Proof

/-- A row index, [0,4) (20_memory.md R50). -/
abbrev RowIdx := Fin 4

/-- A column index, [0,12) (20_memory.md R50). -/
abbrev ColIdx := Fin 12

/-- A switch index s = row*12 + column, [0,48) (20_memory.md R50, 30_encoding.md R70). -/
abbrev SwitchIdx := Fin 48

/-- A letter index, [0,30) (20_memory.md R50). -/
abbrev LetterIdx := Fin 30

/-- The layer selector's four values, Base = 0, L = 1, R = 2, RL = 3 (10_state.md R23). -/
inductive Layer
  | base
  | layerL
  | layerR
  | layerRL
deriving DecidableEq, Repr, Inhabited

/-- The two modifier keys whose keycode depends on the layer (43_layer_resolver.md R163). -/
inductive SpecialKey
  | question
  | backslash
deriving DecidableEq, Repr, Inhabited

/-- The 15 modifiers, in the order m = 0 to 14 of 10_state.md R24, which is also their emission order (R184). -/
inductive Modifier
  | tab
  | delete
  | ctrl
  | backslash
  | shift
  | question
  | esc
  | win1
  | win2
  | altL
  | space
  | altR
  | winR
  | compose
  | enter
deriving DecidableEq, Repr, Inhabited

/-- The block's whole operation set (60_exceptions.md R246), one constructor per row of opcode_table.json.
Operands beside the word (clock readings, sensed levels, CUR and PREV) are in the machine's state, not here (R80). -/
inductive Instr
  /-- OBSERVE s raw (40_debounce_gate.md R100). -/
  | observe (sw : SwitchIdx) (raw : Bool)
  /-- SCAN_ROW r (41_matrix_sampler.md R120). -/
  | scanRow (row : RowIdx)
  /-- ASSEMBLE r mask (42_state_assembler.md R140). -/
  | assemble (row : RowIdx) (mask : Mask)
  /-- RESOLVE l i (43_layer_resolver.md R160). -/
  | resolve (layer : Layer) (letter : LetterIdx)
  /-- RESOLVE_SPECIAL key l (43_layer_resolver.md R163). -/
  | resolveSpecial (key : SpecialKey) (layer : Layer)
  /-- EMIT (44_differ_emitter.md R180). -/
  | emit
  /-- COMMIT (45_scan_cycle.md R211). -/
  | commit
  /-- CYCLE (45_scan_cycle.md R210). -/
  | cycle
deriving DecidableEq, Repr, Inhabited

/-- One line of a stimulus: the clock readings of rows 0 to 3 and the snapshot H, bit s = 1 when the column read of
switch s returns LOW (30_encoding.md R83). -/
structure CycleLine where
  t0 : Nat
  t1 : Nat
  t2 : Nat
  t3 : Nat
  pressed : BitVec 48
deriving DecidableEq, Repr, Inhabited

/-- A line of the stimulus syntax with its pseudo-lines (30_encoding.md R83, R84). -/
inductive StimulusLine
  /-- `CYCLE t=<T0>,<T1>,<T2>,<T3> P=<H>` (or one T for all four rows). -/
  | cycle (line : CycleLine)
  /-- `IDLE t=<T>`. -/
  | idle (t : Nat)
  /-- `KEYS t=<T> (r,c),(r,c),...`. -/
  | keys (t : Nat) (switches : List (RowIdx × ColIdx))
  /-- `REPEAT n <line>`. -/
  | repeated (n : Nat) (line : StimulusLine)
  /-- `REPEAT n <line> STEP d`. -/
  | repeatedStep (n : Nat) (line : StimulusLine) (d : Nat)
deriving DecidableEq, Repr, Inhabited

end Sys2Proof
end

