-- ==== Sys2Proof/Config.lean ====
section
/-! DEFINITION. What an implementation fixes (00_scope.md R6, R7, R8) and the free values: the parameters as plain data,
the check that refuses a parameter set by name, a configuration as a parameter set that passed the check, and the
opaque constants behind every draw of the environment. -/

namespace Sys2Proof

/-- MOD_KC: the keycodes of the 13 modifiers other than question-key and backslash-key (20_memory.md R53). -/
structure ModKeycodes where
  tab : Keycode
  delete : Keycode
  ctrl : Keycode
  shift : Keycode
  esc : Keycode
  win1 : Keycode
  win2 : Keycode
  altL : Keycode
  space : Keycode
  altR : Keycode
  winR : Keycode
  compose : Keycode
  enter : Keycode
deriving DecidableEq, Repr, Inhabited

/-- The thirteen keycodes of MOD_KC as a list. -/
def ModKeycodes.all (k : ModKeycodes) : List Keycode :=
  [k.tab, k.delete, k.ctrl, k.shift, k.esc, k.win1, k.win2, k.altL, k.space, k.altR, k.winR, k.compose, k.enter]

/-- The constants of 00_scope.md R6, which "must be exposed as configuration". -/
structure FixedParams where
  rows : Nat
  cols : Nat
  nSwitch : Nat
  debounceWindow : Nat
  lettersPerRow : Nat
  letterColOffset : Nat
  letterRows : Nat
  nLetter : Nat
  nLayer : Nat
  nMod : Nat
  selectorBits : Nat
  clockResolution : Nat
deriving DecidableEq, Repr, Inhabited

/-- DEBOUNCE_WINDOW in milliseconds (00_scope.md R6). -/
def windowMs : Nat := 15

/-- The only values of the fixed constants the rules are stated for (00_scope.md R6). -/
def FixedParams.spec : FixedParams where
  rows := 4
  cols := 12
  nSwitch := 48
  debounceWindow := windowMs
  lettersPerRow := 10
  letterColOffset := 1
  letterRows := 3
  nLetter := 30
  nLayer := 4
  nMod := 15
  selectorBits := 2
  clockResolution := 1

/-- The parameters of the block as given: the constants of 00_scope.md R6 and the open parameters of R7. MACRO_HOLD_MS
and SETTLE are carried because R7 names them; no rule reads them (70_reset_and_hazards.md R256, R259, R261). -/
structure Params where
  fixed : FixedParams
  layout : Vector (Vector Entry 30) 4
  modKc : ModKeycodes
  questionKcBase : Keycode
  questionKcLayer : Keycode
  backslashKcBase : Keycode
  backslashKcLayer : Keycode
  chordCtrlKc : Keycode
  chordShiftKc : Keycode
  kcBits : Nat
  ctrlFlagPos : Nat
  shiftFlagPos : Nat
  entryBits : Nat
  timeWidth : Nat
  macroHoldMs : Nat
  settle : Nat
deriving DecidableEq, Repr, Inhabited

/-- Why a parameter set is refused, one name per constraint of the spec. -/
inductive ParamRefusal
  /-- A fixed constant has another value (00_scope.md R6, 92_eei_decisions.md D32). -/
  | fixedConstantChanged
  /-- QUESTION_KC_BASE = QUESTION_KC_LAYER (R8). -/
  | questionRemapSame
  /-- BACKSLASH_KC_BASE = BACKSLASH_KC_LAYER (R8). -/
  | backslashRemapSame
  /-- CTRL_FLAG_POS = SHIFT_FLAG_POS (R8, 30_encoding.md R77). -/
  | flagPositionsEqual
  /-- A flag position below KC_BITS (R8, R77). -/
  | flagInsideKeycode
  /-- A flag position not below ENTRY_BITS (R77). -/
  | flagOutsideEntry
  /-- TIME_WIDTH <= 4 (R8). -/
  | timeWidthTooSmall
  /-- A layout entry that does not fit ENTRY_BITS bits (R77). -/
  | entryTooWide
  /-- A keycode that does not fit KC_BITS bits (R79). -/
  | keycodeTooWide
deriving DecidableEq, Repr

/-- Every keycode parameter outside LAYOUT. -/
def Params.keycodes (p : Params) : List Keycode :=
  p.modKc.all ++ [p.questionKcBase, p.questionKcLayer, p.backslashKcBase, p.backslashKcLayer, p.chordCtrlKc, p.chordShiftKc]

/-- The check of a parameter set: the first constraint it breaks, by name, or none (00_scope.md R6, R8;
30_encoding.md R77, R79). The spec gives the constraints no order; this one is the model's (DESIGN CHOICE, log 26). -/
def Params.check (p : Params) : Option ParamRefusal :=
  if p.fixed ≠ FixedParams.spec then some .fixedConstantChanged
  else if p.questionKcBase = p.questionKcLayer then some .questionRemapSame
  else if p.backslashKcBase = p.backslashKcLayer then some .backslashRemapSame
  else if p.ctrlFlagPos = p.shiftFlagPos then some .flagPositionsEqual
  else if p.ctrlFlagPos < p.kcBits ∨ p.shiftFlagPos < p.kcBits then some .flagInsideKeycode
  else if p.entryBits ≤ p.ctrlFlagPos ∨ p.entryBits ≤ p.shiftFlagPos then some .flagOutsideEntry
  else if p.timeWidth ≤ 4 then some .timeWidthTooSmall
  else if p.layout.toList.any (fun layer => layer.toList.any (fun e => decide (2 ^ p.entryBits ≤ e))) then some .entryTooWide
  else if p.keycodes.any (fun k => decide (2 ^ p.kcBits ≤ k)) then some .keycodeTooWide
  else none

/-- A configuration: a parameter set that passed the check, so that one which breaks a constraint cannot be held by any
state (00_scope.md R8: "a model refuses a configuration that breaks one"). -/
structure Config where
  params : Params
  accepted : params.check = none
deriving DecidableEq, Repr

/-- Build a configuration from parameters, or refuse them by name (00_scope.md R6, R8). -/
def Config.ofParams (p : Params) : Except ParamRefusal Config :=
  match h : p.check with
  | none => .ok ⟨p, h⟩
  | some r => .error r

/-- The parameters this machine was built with. FREE VALUE: the spec gives no value (92_eei_decisions.md D4, D13 to D17). -/
opaque Config.declared : Params

/-- A parameter set that passes the check, used only where the declared one does not (DESIGN CHOICE, log 2). -/
def Params.fallback : Params where
  fixed := FixedParams.spec
  layout := Vector.replicate 4 (Vector.replicate 30 0)
  modKc := default
  questionKcBase := 0
  questionKcLayer := 1
  backslashKcBase := 0
  backslashKcLayer := 1
  chordCtrlKc := 0
  chordShiftKc := 0
  kcBits := 1
  ctrlFlagPos := 1
  shiftFlagPos := 2
  entryBits := 3
  timeWidth := 5
  macroHoldMs := 0
  settle := 0

/-- The configuration of State.reset: the declared parameters if they pass the check. Every configuration that passes is
a possible value, and no proof can see which it is (log 2). -/
def Config.machine : Config :=
  if h : Config.declared.check = none then ⟨Config.declared, h⟩ else ⟨Params.fallback, by decide⟩

/-- FREE VALUE: the clock reading the environment answers when State lists none (45_scan_cycle.md R212). -/
opaque Config.freeReading : Nat → Nat

/-- The level of a column line (30_encoding.md R72). -/
inductive LineLevel
  | low
  | high
deriving DecidableEq, Repr, Inhabited

/-- FREE VALUE: the column level the environment answers when State lists none (41_matrix_sampler.md R125). -/
opaque Config.freeLevel : Nat → LineLevel

/-- FREE VALUE: whether a level is accepted when `now < DEB_T[s]` and State lists no draw (40_debounce_gate.md R102). -/
opaque Config.freeAccept : Nat → Bool

end Sys2Proof
end

