-- ==== Sys2Proof/WellFormed.lean ====
section
/-! DEFINITION. What is well formed: a legal request word (30_encoding.md R80, R81, from the masks and patterns of
opcode_table.json) and a stimulus line (R83, R84). An Instr needs no check: its index types are bounded
(60_exceptions.md R231). A parameter set's check is Params.check in Config.lean (00_scope.md R8). -/

namespace Sys2Proof

/-- A row of opcode_table.json: the bits that are fixed and their values. -/
structure OpcodeRow where
  mnemonic : String
  mask : ReqWord
  pattern : ReqWord
deriving DecidableEq, Repr

/-- The opcode table of the spec (30_encoding.md R80, opcode_table.json). -/
def opcodeTable : List OpcodeRow :=
  [⟨"OBSERVE", 0xFFFFFC07#32, 0#32⟩,
   ⟨"SCAN_ROW", 0xFFFFFFE7#32, 1#32⟩,
   ⟨"ASSEMBLE", 0xFFFE0007#32, 2#32⟩,
   ⟨"RESOLVE", 0xFFFFFC07#32, 3#32⟩,
   ⟨"RESOLVE_SPECIAL", 0xFFFFFFC7#32, 4#32⟩,
   ⟨"EMIT", 0xFFFFFFFF#32, 5#32⟩,
   ⟨"COMMIT", 0xFFFFFFFF#32, 6#32⟩,
   ⟨"CYCLE", 0xFFFFFFFF#32, 7#32⟩]

/-- A word matches a row when its fixed bits have the row's values. -/
def OpcodeRow.matchesWord (r : OpcodeRow) (w : ReqWord) : Bool := w &&& r.mask == r.pattern

/-- OBSERVE's switch field W[8:3] is at least 48 (30_encoding.md R81). -/
def observeOutOfRange (w : ReqWord) : Bool :=
  (w &&& 7#32 == 0#32) && decide (48 ≤ (w >>> 3).toNat % 64)

/-- RESOLVE's letter field W[9:5] is at least 30 (30_encoding.md R81). -/
def resolveOutOfRange (w : ReqWord) : Bool :=
  (w &&& 7#32 == 3#32) && decide (30 ≤ (w >>> 5).toNat % 32)

/-- A legal request word: it matches a row of the table and spells no index outside its range (30_encoding.md R81). -/
def legalWord (w : ReqWord) : Bool :=
  opcodeTable.any (fun r => r.matchesWord w) && !observeOutOfRange w && !resolveOutOfRange w

/-- A reading fits TIME_WIDTH bits (30_encoding.md R83). -/
def readingFits (timeWidth : Nat) (t : Nat) : Bool := decide (t < 2 ^ timeWidth)

/-- The four readings of a line, in row order (30_encoding.md R83). -/
def CycleLine.readings (line : CycleLine) : List Nat := [line.t0, line.t1, line.t2, line.t3]

/-- The clock readings a stimulus line gives, copy by copy (30_encoding.md R83, R84). -/
def StimulusLine.readings : StimulusLine → List Nat
  | .cycle line => line.readings
  | .idle t => [t, t, t, t]
  | .keys t _ => [t, t, t, t]
  | .repeated n line => (List.replicate n line.readings).flatten
  | .repeatedStep n line d => ((List.range n).map (fun k => line.readings.map (· + k * d))).flatten

/-- All readings are one reading. -/
def sameReading : List Nat → Bool
  | [] => true
  | t :: ts => ts.all (· == t)

/-- A legal stimulus line: every written reading is a TIME_WIDTH-bit value, and a REPEAT without STEP repeats a line with
one reading (30_encoding.md R83, R84; log 14). The reader and the expansion do not ask for it (DESIGN CHOICE, log 27). -/
def StimulusLine.wellFormed (timeWidth : Nat) : StimulusLine → Bool
  | .cycle line => line.readings.all (readingFits timeWidth)
  | .idle t => readingFits timeWidth t
  | .keys t _ => readingFits timeWidth t
  | .repeated _ line => line.wellFormed timeWidth && sameReading line.readings
  | .repeatedStep _ line _ => line.wellFormed timeWidth

/-- Successive readings are non-decreasing: the premise of a stimulus in which the clock does not wrap
(30_encoding.md R83, 45_scan_cycle.md R212). -/
def nonDecreasing : List Nat → Bool
  | [] => true
  | [_] => true
  | a :: b :: rest => decide (a ≤ b) && nonDecreasing (b :: rest)

end Sys2Proof
end

