-- ==== Sys2Proof/Decode.lean ====
section
/-! DEFINITION. The decoder of request words (30_encoding.md R80, R81), total, refusing by name, over a word and over
bytes; and after it the encoder, from the same table. -/

namespace Sys2Proof

/-- Why a request word spells no operation (30_encoding.md R81); each is raised by the decoder and is safe: the model
stops where the spec refuses. The names are the model's (DESIGN CHOICE, log 26). -/
inductive Illegal
  /-- A 1 in a must-be-zero field of the named operation (R81). -/
  | mustBeZero (mnemonic : String)
  /-- OBSERVE with W[8:3] in 48..63 (R81). -/
  | switchOutOfRange (s : Nat)
  /-- RESOLVE with W[9:5] in 30..31 (R81). -/
  | letterOutOfRange (i : Nat)
  /-- Fewer than the four bytes of a request word (R82); raised by decodeBytes alone (DESIGN CHOICE, log 21). -/
  | tooShort (bytes : Nat)
deriving DecidableEq, Repr

/-- The unsigned field of `len` bits of W from bit `lo` up (00_scope.md R9). -/
def bitField (w : ReqWord) (lo len : Nat) : Nat := w.toNat / 2 ^ lo % 2 ^ len

/-- The layer selector of a 2-bit field: Base = 0, L = 1, R = 2, RL = 3 (10_state.md R23). -/
def layerOfField (n : Nat) : Layer :=
  match n % 4 with
  | 0 => .base
  | 1 => .layerL
  | 2 => .layerR
  | _ => .layerRL

/-- The number of a layer selector value (10_state.md R23). -/
def Layer.code : Layer → Fin 4
  | .base => 0
  | .layerL => 1
  | .layerR => 2
  | .layerRL => 3

/-- A row index from a 2-bit field. -/
def rowOfField (n : Nat) : RowIdx := ⟨n % 4, Nat.mod_lt n (by decide)⟩

/-- W[3] of RESOLVE_SPECIAL: 0 = QUESTION, 1 = BACKSLASH (30_encoding.md R80). -/
def keyOfField (n : Nat) : SpecialKey := if n = 0 then .question else .backslash

/-- OBSERVE: s = W[8:3], raw = W[9], W[31:10] zero (R80). A word that is illegal in both ways is refused as mustBeZero
(DESIGN CHOICE, log 26). -/
def decodeObserve (w : ReqWord) : Except Illegal Instr :=
  if bitField w 10 22 ≠ 0 then .error (.mustBeZero "OBSERVE")
  else if h : bitField w 3 6 < 48 then .ok (.observe ⟨bitField w 3 6, h⟩ (bitField w 9 1 == 1))
  else .error (.switchOutOfRange (bitField w 3 6))

/-- SCAN_ROW: r = W[4:3], W[31:5] zero (R80). -/
def decodeScanRow (w : ReqWord) : Except Illegal Instr :=
  if bitField w 5 27 ≠ 0 then .error (.mustBeZero "SCAN_ROW")
  else .ok (.scanRow (rowOfField (bitField w 3 2)))

/-- ASSEMBLE: r = W[4:3], mask = W[16:5], W[31:17] zero (R80). -/
def decodeAssemble (w : ReqWord) : Except Illegal Instr :=
  if bitField w 17 15 ≠ 0 then .error (.mustBeZero "ASSEMBLE")
  else .ok (.assemble (rowOfField (bitField w 3 2)) (BitVec.ofNat 12 (bitField w 5 12)))

/-- RESOLVE: l = W[4:3], i = W[9:5], W[31:10] zero (R80). A word that is illegal in both ways is refused as mustBeZero
(DESIGN CHOICE, log 26). -/
def decodeResolve (w : ReqWord) : Except Illegal Instr :=
  if bitField w 10 22 ≠ 0 then .error (.mustBeZero "RESOLVE")
  else if h : bitField w 5 5 < 30 then .ok (.resolve (layerOfField (bitField w 3 2)) ⟨bitField w 5 5, h⟩)
  else .error (.letterOutOfRange (bitField w 5 5))

/-- RESOLVE_SPECIAL: key = W[3], l = W[5:4], W[31:6] zero (R80). -/
def decodeResolveSpecial (w : ReqWord) : Except Illegal Instr :=
  if bitField w 6 26 ≠ 0 then .error (.mustBeZero "RESOLVE_SPECIAL")
  else .ok (.resolveSpecial (keyOfField (bitField w 3 1)) (layerOfField (bitField w 4 2)))

/-- EMIT, COMMIT and CYCLE have no field: W[31:3] zero (R80). -/
def decodePlain (mnemonic : String) (i : Instr) (w : ReqWord) : Except Illegal Instr :=
  if bitField w 3 29 ≠ 0 then .error (.mustBeZero mnemonic) else .ok i

/-- The decoder: the operation code W[2:0] selects the row; every code is assigned (R80, R81). -/
def decodeWord (w : ReqWord) : Except Illegal Instr :=
  match bitField w 0 3 with
  | 0 => decodeObserve w
  | 1 => decodeScanRow w
  | 2 => decodeAssemble w
  | 3 => decodeResolve w
  | 4 => decodeResolveSpecial w
  | 5 => decodePlain "EMIT" .emit w
  | 6 => decodePlain "COMMIT" .commit w
  | _ => decodePlain "CYCLE" .cycle w

/-- The four bytes of a word, byte 0 holding bits 7 to 0 (20_memory.md R54). -/
def wordBytes (w : ReqWord) : List Byte :=
  [w.extractLsb' 0 8, w.extractLsb' 8 8, w.extractLsb' 16 8, w.extractLsb' 24 8]

/-- The decoder over bytes: it takes one 32-bit word, little-endian, and gives the rest back (R54, R82). -/
def decodeBytes : List Byte → Except Illegal (Instr × List Byte)
  | b0 :: b1 :: b2 :: b3 :: rest => (decodeWord (b3 ++ b2 ++ b1 ++ b0)).map (fun i => (i, rest))
  | bytes => .error (.tooShort bytes.length)

/-- The instruction the decoder reads from an instruction of `nbits` bits with value `w`, bits above zero. -/
def decodeTableWord (nbits w : Nat) : Option Instr :=
  match decodeBytes (wordBytes (BitVec.ofNat 32 (w % 2 ^ nbits))) with
  | .ok (i, _) => some i
  | .error _ => none

/-- The value W[3] of a special key (R80). -/
def SpecialKey.code : SpecialKey → Nat
  | .question => 0
  | .backslash => 1

/-- The encoder: the fields of R80's table laid into the word, every must-be-zero field 0. -/
def encode : Instr → ReqWord
  | .observe s raw => BitVec.ofNat 32 (0 + s.val * 8 + raw.toNat * 512)
  | .scanRow r => BitVec.ofNat 32 (1 + r.val * 8)
  | .assemble r mask => BitVec.ofNat 32 (2 + r.val * 8 + mask.toNat * 32)
  | .resolve l i => BitVec.ofNat 32 (3 + l.code.val * 8 + i.val * 32)
  | .resolveSpecial key l => BitVec.ofNat 32 (4 + key.code * 8 + l.code.val * 16)
  | .emit => 5#32
  | .commit => 6#32
  | .cycle => 7#32

end Sys2Proof
end

