-- ==== Sys2Proof/Machine/State.lean ====
section
/-! DEFINITION. The machine's state as plain data (10_state.md R20 to R39), the environment's and the requester's side of
it, the reasons a step can stop, and the state after reset (R38, 70_reset_and_hazards.md R250, R251). -/

namespace Sys2Proof.Machine

/-- A KeyboardState (10_state.md R22 to R24): 30 letters, the layer selector, 15 modifiers in the order of R24. -/
structure KeyboardState where
  letters : Vector Bool 30
  layerSelector : Layer
  modifiers : Vector Bool 15
deriving DecidableEq, Repr

/-- All released, layer Base: the reset value of CUR and PREV (10_state.md R38). -/
def KeyboardState.released : KeyboardState :=
  ⟨Vector.replicate 30 false, .base, Vector.replicate 15 false⟩

/-- One switch's debounce record as one value: its elements of DEB_T, DEB_RAW and DEB_STABLE (10_state.md R29 to R31). -/
structure DebCell where
  time : Nat
  raw : Bool
  stable : Bool
deriving DecidableEq, Repr

/-- The level the block drives on a row line (10_state.md R33). -/
inductive RowLevel
  | active
  | inactive
deriving DecidableEq, Repr, Inhabited

/-- The sequencer phase (10_state.md R34): `scan r` is SCANr, and there are exactly six values. -/
inductive Phase
  | scan (r : RowIdx)
  | emit
  | commit
deriving DecidableEq, Repr

/-- The 3-bit code of a phase: SCAN0 to SCAN3 = 0 to 3, EMIT = 4, COMMIT = 5; 6 and 7 never occur (10_state.md R34). -/
def Phase.code : Phase → BitVec 3
  | .scan r => BitVec.ofNat 3 r.val
  | .emit => 4#3
  | .commit => 5#3

/-- An event of the output trace (00_scope.md R11). -/
inductive Event
  | press (k : Keycode)
  | release (k : Keycode)
  | hold
deriving DecidableEq, Repr

/-- An external call the block makes (20_memory.md R60, 45_scan_cycle.md R217), in call order: a clock reading, a row
drive, a column read, or an event of the output trace. -/
inductive Call
  | now
  | drive (r : RowIdx) (level : RowLevel)
  | sense (c : ColIdx)
  | event (e : Event)
deriving DecidableEq, Repr

/-- The result of a direct request, given back to its issuer (40_debounce_gate.md R100, 41_matrix_sampler.md R120,
43_layer_resolver.md R160, R163; log 8). -/
inductive Answer
  | stable (level : Bool)
  | mask (m : Mask)
  | resolved (keycode : Keycode) (ctrlChord shiftChord : Bool)
  | keycode (k : Keycode)
deriving DecidableEq, Repr

/-- What the environment will answer, next first; when a list is empty the answer is a free value of Config at the
counter `drawn` (60_exceptions.md R245; log 4, log 5). -/
structure Env where
  readings : List Nat
  levels : List LineLevel
  accepts : List Bool
  drawn : Nat
deriving DecidableEq, Repr

/-- The state. `debT` to `phase` are the block's (10_state.md R20); `hostSet` is the HID sink's (60_exceptions.md R240);
`calls` is the record of external calls, the output trace among them (45_scan_cycle.md R217); `config` holds the read-only
parameters (00_scope.md R7; log 1); `requests`, `env` and `answers` are the model's own (log 3, 4, 8). -/
structure State where
  config : Config
  debT : Vector Nat 48
  debRaw : Vector Bool 48
  debStable : Vector Bool 48
  cur : KeyboardState
  prev : KeyboardState
  rowLine : Vector RowLevel 4
  phase : Phase
  hostSet : List Keycode
  calls : List Call
  requests : List ReqWord
  env : Env
  answers : List Answer
deriving DecidableEq, Repr

/-- A step's fault: there is none. The block raises no exception and no behaviour of it is modelled as a fault or as
stuck (60_exceptions.md R230, R236), so this type has no constructor and no definition can raise one (safe). -/
inductive Fault
deriving DecidableEq, Repr

/-- Why a step is refused (60_exceptions.md R236: before the operation starts, leaving the state unchanged). -/
inductive Refusal
  /-- An instruction with no meaning in the model. No arm of exec raises it: every instruction has its meaning. Safe. -/
  | notModelled (mnemonic : String)
  /-- The pending request word is illegal; raised by `step` when the decoder refuses it (30_encoding.md R81). Safe. -/
  | illegalRequest (why : Illegal)
  /-- A direct CYCLE at a PHASE other than SCAN0; raised by CYCLE's meaning (45_scan_cycle.md R220). Safe. -/
  | cycleNotAtScan0 (phase : Phase)
deriving DecidableEq, Repr

/-- The machine right after reset (10_state.md R38, 70_reset_and_hazards.md R250, R251): the debounce record zero, CUR and
PREV released at layer Base, every row line INACTIVE, PHASE = SCAN0, HOSTSET empty (60_exceptions.md R240). Nothing has
been called, requested or answered, and the environment's answers are all free (log 3, 4, 5, 8). -/
def State.reset : State where
  config := Config.machine
  debT := Vector.replicate 48 0
  debRaw := Vector.replicate 48 false
  debStable := Vector.replicate 48 false
  cur := KeyboardState.released
  prev := KeyboardState.released
  rowLine := Vector.replicate 4 .inactive
  phase := .scan 0
  hostSet := []
  calls := []
  requests := []
  env := ⟨[], [], [], 0⟩
  answers := []

end Sys2Proof.Machine
end

