-- ==== Sys2Proof/Machine/Ops.lean ====
section
/-! DEFINITION. The named operations over the state: one update per field, the draws of the environment, the external calls
(60_exceptions.md R238 to R240), the debounce record of one switch, the results of direct requests, and the request queue.
The block has no memory (20_memory.md R50) and takes no exception (60_exceptions.md R236), so there is no operation for either. -/

namespace Sys2Proof.Machine

def State.setDebT (v : Vector Nat 48) (s : State) : State := { s with debT := v }
def State.setDebRaw (v : Vector Bool 48) (s : State) : State := { s with debRaw := v }
def State.setDebStable (v : Vector Bool 48) (s : State) : State := { s with debStable := v }
/-- Written by ASSEMBLE only (10_state.md R26). -/
def State.setCur (k : KeyboardState) (s : State) : State := { s with cur := k }
/-- Written by COMMIT only (10_state.md R27). -/
def State.setPrev (k : KeyboardState) (s : State) : State := { s with prev := k }
def State.setRowLine (v : Vector RowLevel 4) (s : State) : State := { s with rowLine := v }
/-- `pc <- p` of the pseudocode (00_scope.md R10). -/
def State.setPhase (p : Phase) (s : State) : State := { s with phase := p }
def State.setHostSet (h : List Keycode) (s : State) : State := { s with hostSet := h }
def State.setRequests (r : List ReqWord) (s : State) : State := { s with requests := r }
def State.setEnv (e : Env) (s : State) : State := { s with env := e }
/-- Record an external call, after every earlier one (20_memory.md R60). -/
def State.addCall (c : Call) (s : State) : State := { s with calls := s.calls ++ [c] }
/-- Give a direct request's result back to its issuer (log 8). -/
def State.reply (a : Answer) (s : State) : State := { s with answers := s.answers ++ [a] }

/-! ### Draws (00_scope.md R10, 60_exceptions.md R245) -/

/-- The next clock reading, a TIME_WIDTH-bit value (45_scan_cycle.md R212, 60_exceptions.md R238). -/
def State.drawReading (s : State) : Nat × State :=
  match s.env.readings with
  | t :: rest => (t % 2 ^ s.config.params.timeWidth, s.setEnv { s.env with readings := rest })
  | [] => (Config.freeReading s.env.drawn % 2 ^ s.config.params.timeWidth, s.setEnv { s.env with drawn := s.env.drawn + 1 })

/-- The next column level (41_matrix_sampler.md R125). -/
def State.drawLevel (s : State) : LineLevel × State :=
  match s.env.levels with
  | l :: rest => (l, s.setEnv { s.env with levels := rest })
  | [] => (Config.freeLevel s.env.drawn, s.setEnv { s.env with drawn := s.env.drawn + 1 })

/-- The next acceptance draw of the Debounce Gate across a clock wrap (40_debounce_gate.md R102). -/
def State.drawAccept (s : State) : Bool × State :=
  match s.env.accepts with
  | b :: rest => (b, s.setEnv { s.env with accepts := rest })
  | [] => (Config.freeAccept s.env.drawn, s.setEnv { s.env with drawn := s.env.drawn + 1 })

/-! ### External calls -/

/-- `Now()` (60_exceptions.md R238). -/
def State.callNow (s : State) : Nat × State := (s.addCall .now).drawReading

/-- `Drive(r, lvl)`, and the row line it sets (60_exceptions.md R239, 10_state.md R33). -/
def State.drive (r : RowIdx) (level : RowLevel) (s : State) : State :=
  (s.setRowLine (s.rowLine.set r.val level r.isLt)).addCall (.drive r level)

/-- `Sense(c)` (60_exceptions.md R239). -/
def State.sense (c : ColIdx) (s : State) : LineLevel × State := (s.addCall (.sense c)).drawLevel

/-- Put a keycode into a strictly rising list; one that is there already stays (60_exceptions.md R240). -/
def hostInsert (k : Keycode) : List Keycode → List Keycode
  | [] => [k]
  | x :: xs => if k < x then k :: x :: xs else if k = x then x :: xs else x :: hostInsert k xs

/-- Take a keycode out of HOSTSET; one that is not there is a no-op (60_exceptions.md R240). -/
def hostErase (k : Keycode) (host : List Keycode) : List Keycode := host.filter (fun x => x != k)

/-- The canonical form of HOSTSET: strictly rising, so that equal sets are equal lists (log 10). -/
abbrev hostSetWf (host : List Keycode) : Prop := host.Pairwise (· < ·)

/-- What an event does to HOSTSET (60_exceptions.md R240). -/
def hostAfterEvent (e : Event) (host : List Keycode) : List Keycode :=
  match e with
  | .press k => hostInsert k host
  | .release k => hostErase k host
  | .hold => host

/-- `Emit(ev)`: the event goes to the output trace and acts on HOSTSET at once (00_scope.md R10, 20_memory.md R61). -/
def State.emitEvent (e : Event) (s : State) : State :=
  (s.setHostSet (hostAfterEvent e s.hostSet)).addCall (.event e)

/-- Emit events one after another (20_memory.md R61). -/
def State.emitEvents (events : List Event) (s : State) : State := events.foldl (fun s e => s.emitEvent e) s

/-- The event a call puts in the output trace, if it is one. -/
def Call.toEvent : Call → Option Event
  | .event e => some e
  | .now => none
  | .drive _ _ => none
  | .sense _ => none

/-- The output trace (00_scope.md R11). -/
def State.trace (s : State) : List Event := s.calls.filterMap Call.toEvent

/-- HOSTSET after a trace, from process start (60_exceptions.md R240). -/
def hostAfter (trace : List Event) : List Keycode := trace.foldl (fun host e => hostAfterEvent e host) []

/-- The row lines after a call. -/
def linesAfterCall (lines : Vector RowLevel 4) (c : Call) : Vector RowLevel 4 :=
  match c with
  | .drive r level => lines.set r.val level r.isLt
  | .now => lines
  | .sense _ => lines
  | .event _ => lines

/-- The row lines after a sequence of calls (10_state.md R33). -/
def linesAfter (calls : List Call) (lines : Vector RowLevel 4) : Vector RowLevel 4 := calls.foldl linesAfterCall lines

/-! ### The debounce record of one switch (10_state.md R32) -/

/-- Read one switch's record. -/
def State.cell (s : State) (k : SwitchIdx) : DebCell := ⟨s.debT[k], s.debRaw[k], s.debStable[k]⟩

/-- Write one switch's record. -/
def State.setCell (k : SwitchIdx) (c : DebCell) (s : State) : State :=
  ((s.setDebT (s.debT.set k.val c.time k.isLt)).setDebRaw (s.debRaw.set k.val c.raw k.isLt)).setDebStable
    (s.debStable.set k.val c.stable k.isLt)

/-! ### The request queue (45_scan_cycle.md R220; log 3) -/

/-- What the machine finds where it looks for its next operation. -/
inductive Fetched
  /-- No request is pending: the sequencer goes on (R215). -/
  | sequencer
  /-- A legal request, taken from the queue. -/
  | request (i : Instr) (s : State)
  /-- An illegal request word (30_encoding.md R81). -/
  | illegal (why : Illegal)
deriving DecidableEq, Repr

/-- Look for the next operation: the oldest pending request word, decoded, or the sequencer (R215, R220). -/
def State.fetch (s : State) : Fetched :=
  match s.requests with
  | [] => .sequencer
  | w :: rest =>
    match decodeWord w with
    | .ok i => .request i (s.setRequests rest)
    | .error why => .illegal why

end Sys2Proof.Machine
end

