-- ==== Sys2Proof/Machine/Operands.lean ====
section
/-! DEFINITION. The operand forms: the index maps of switches, letters and modifiers (30_encoding.md R70, R73 to R76), line
levels (R72), bits of masks and layout entries (R71, R77), and the packed KeyboardState (10_state.md R28). -/

namespace Sys2Proof.Machine

/-- s = row*12 + column (30_encoding.md R70). -/
def switchOf (r : RowIdx) (c : ColIdx) : SwitchIdx :=
  ⟨r.val * 12 + c.val, by have := r.isLt; have := c.isLt; omega⟩

/-- row = s div 12 (30_encoding.md R70). -/
def switchRow (k : SwitchIdx) : RowIdx := ⟨k.val / 12, by have := k.isLt; omega⟩

/-- column = s mod 12 (30_encoding.md R70). -/
def switchCol (k : SwitchIdx) : ColIdx := ⟨k.val % 12, Nat.mod_lt _ (by decide)⟩

/-- r = i div 10 (30_encoding.md R73). -/
def letterRow (i : LetterIdx) : RowIdx := ⟨i.val / 10, by have := i.isLt; omega⟩

/-- c = (i mod 10) + 1 (30_encoding.md R73). -/
def letterCol (i : LetterIdx) : ColIdx := ⟨i.val % 10 + 1, by omega⟩

/-- The index m of a modifier (10_state.md R24). -/
def modifierIndex : Modifier → Fin 15
  | .tab => 0
  | .delete => 1
  | .ctrl => 2
  | .backslash => 3
  | .shift => 4
  | .question => 5
  | .esc => 6
  | .win1 => 7
  | .win2 => 8
  | .altL => 9
  | .space => 10
  | .altR => 11
  | .winR => 12
  | .compose => 13
  | .enter => 14

/-- The modifiers in the order m = 0 to 14 (10_state.md R24). -/
def allModifiers : List Modifier :=
  [.tab, .delete, .ctrl, .backslash, .shift, .question, .esc, .win1, .win2, .altL, .space, .altR, .winR, .compose, .enter]

/-- The modifier with index m (10_state.md R24). -/
def modifierOf (m : Fin 15) : Modifier := allModifiers.getD m.val .tab

/-- The row of the switch that feeds a modifier (30_encoding.md R74). -/
def modifierRow : Modifier → RowIdx
  | .tab => 0
  | .delete => 0
  | .ctrl => 1
  | .backslash => 1
  | .shift => 2
  | .question => 2
  | .esc => 3
  | .win1 => 3
  | .win2 => 3
  | .altL => 3
  | .space => 3
  | .altR => 3
  | .winR => 3
  | .compose => 3
  | .enter => 3

/-- The mask bit that feeds a modifier (30_encoding.md R74). -/
def modifierCol : Modifier → ColIdx
  | .tab => 0
  | .delete => 11
  | .ctrl => 0
  | .backslash => 11
  | .shift => 0
  | .question => 11
  | .esc => 0
  | .win1 => 1
  | .win2 => 2
  | .altL => 3
  | .space => 6
  | .altR => 8
  | .winR => 9
  | .compose => 10
  | .enter => 11

/-- The row that feeds the layer selector (30_encoding.md R75). -/
def selectorRow : RowIdx := 3

/-- The selector from its two bits, bit 1 first: {ROWMASK3[7], ROWMASK3[4]} (30_encoding.md R75, 10_state.md R23). -/
def layerOfBits (bit1 bit0 : Bool) : Layer :=
  match bit1, bit0 with
  | false, false => .base
  | false, true => .layerL
  | true, false => .layerR
  | true, true => .layerRL

/-- Bit 0 of the selector: layer key L is held (30_encoding.md R75). -/
def layerBit0 : Layer → Bool
  | .base => false
  | .layerL => true
  | .layerR => false
  | .layerRL => true

/-- Bit 1 of the selector: layer key R is held (30_encoding.md R75). -/
def layerBit1 : Layer → Bool
  | .base => false
  | .layerL => false
  | .layerR => true
  | .layerRL => true

/-- What a switch does (30_encoding.md R76). -/
inductive SwitchFunction
  | letter (i : LetterIdx)
  | modifier (m : Modifier)
  | layerKeyL
  | layerKeyR
  | unused
deriving DecidableEq, Repr

/-- The switches of row 0, column by column (30_encoding.md R76). -/
def row0Functions : List SwitchFunction :=
  [.modifier .tab, .letter 0, .letter 1, .letter 2, .letter 3, .letter 4, .letter 5, .letter 6, .letter 7, .letter 8,
    .letter 9, .modifier .delete]

/-- The switches of row 1 (30_encoding.md R76). -/
def row1Functions : List SwitchFunction :=
  [.modifier .ctrl, .letter 10, .letter 11, .letter 12, .letter 13, .letter 14, .letter 15, .letter 16, .letter 17,
    .letter 18, .letter 19, .modifier .backslash]

/-- The switches of row 2 (30_encoding.md R76). -/
def row2Functions : List SwitchFunction :=
  [.modifier .shift, .letter 20, .letter 21, .letter 22, .letter 23, .letter 24, .letter 25, .letter 26, .letter 27,
    .letter 28, .letter 29, .modifier .question]

/-- The switches of row 3 (30_encoding.md R76). -/
def row3Functions : List SwitchFunction :=
  [.modifier .esc, .modifier .win1, .modifier .win2, .modifier .altL, .layerKeyL, .unused, .modifier .space, .layerKeyR,
    .modifier .altR, .modifier .winR, .modifier .compose, .modifier .enter]

/-- The complete map of the 48 switches, row by row (30_encoding.md R76). -/
def switchFunctions : List SwitchFunction := row0Functions ++ row1Functions ++ row2Functions ++ row3Functions

/-- The function of a switch (30_encoding.md R76). -/
def switchFunction (k : SwitchIdx) : SwitchFunction := switchFunctions.getD k.val .unused

/-- The KeyboardState bit a switch feeds, if it feeds one (30_encoding.md R76). -/
def KeyboardState.fedBy (ks : KeyboardState) (k : SwitchIdx) : Option Bool :=
  match switchFunction k with
  | .letter i => some ks.letters[i]
  | .modifier m => some ks.modifiers[modifierIndex m]
  | .layerKeyL => some (layerBit0 ks.layerSelector)
  | .layerKeyR => some (layerBit1 ks.layerSelector)
  | .unused => none

/-- The level of one modifier. -/
def KeyboardState.modifier (ks : KeyboardState) (m : Modifier) : Bool := ks.modifiers[modifierIndex m]

/-- raw = (Sense(c) == LOW) (30_encoding.md R72). -/
def pressedLevel (l : LineLevel) : Bool :=
  match l with
  | .low => true
  | .high => false

/-- A row line is electrically LOW when ACTIVE and HIGH when INACTIVE (30_encoding.md R72). -/
def electricalLevel (l : RowLevel) : LineLevel :=
  match l with
  | .active => .low
  | .inactive => .high

/-- Bit c of a mask (30_encoding.md R71). -/
def maskBit (m : Mask) (c : ColIdx) : Bool := m.getLsbD c.val

/-- mask[c] <- b (00_scope.md R10). -/
def setMaskBit (m : Mask) (c : ColIdx) (b : Bool) : Mask :=
  (m &&& ~~~(BitVec.twoPow 12 c.val)) ||| (if b then BitVec.twoPow 12 c.val else 0#12)

/-- A decoded layout entry (30_encoding.md R77). -/
structure DecodedEntry where
  keycode : Keycode
  ctrlChord : Bool
  shiftChord : Bool
deriving DecidableEq, Repr

/-- keycode = e[KC_BITS-1:0], ctrl_chord = e[CTRL_FLAG_POS], shift_chord = e[SHIFT_FLAG_POS]; every other bit is ignored
(30_encoding.md R77). -/
def decodeEntry (p : Params) (e : Entry) : DecodedEntry :=
  ⟨e % 2 ^ p.kcBits, e.testBit p.ctrlFlagPos, e.testBit p.shiftFlagPos⟩

/-- `RomRead(l, i)` (20_memory.md R51). -/
def romRead (p : Params) (l : Layer) (i : LetterIdx) : Entry := (p.layout[l.code])[i]

/-- A row of booleans as a number, element 0 in bit 0 (00_scope.md R9). -/
def bitsNumber : List Bool → Nat
  | [] => 0
  | b :: rest => b.toNat + 2 * bitsNumber rest

/-- The packed KeyboardState KS, for reference and serialisation only (10_state.md R28). -/
def KeyboardState.pack (ks : KeyboardState) : BitVec 47 :=
  BitVec.ofNat 15 (bitsNumber ks.modifiers.toList) ++ BitVec.ofNat 2 ks.layerSelector.code.val ++
    BitVec.ofNat 30 (bitsNumber ks.letters.toList)

/-- The KeyboardState a packed word stands for (10_state.md R28). -/
def KeyboardState.unpack (w : BitVec 47) : KeyboardState :=
  ⟨Vector.ofFn (fun i => w.getLsbD i.val), layerOfBits (w.getLsbD 31) (w.getLsbD 30),
    Vector.ofFn (fun m => w.getLsbD (32 + m.val))⟩

end Sys2Proof.Machine
end

