-- ==== Sys2Proof/Machine/Flags.lean ====
section
/-! DEFINITION. The block has no condition codes or status flags (10_state.md R36). This file holds the yes-or-no values its
rules compute: the Debounce Gate's acceptance (40_debounce_gate.md R100 to R103), an entry's being a macro entry
(30_encoding.md R78) and an edge between two KeyboardStates (44_differ_emitter.md R180). -/

namespace Sys2Proof.Machine

/-- `a -w b`: subtraction modulo 2^TIME_WIDTH (00_scope.md R10, 40_debounce_gate.md R102). -/
def subTime (timeWidth a b : Nat) : Nat := (a % 2 ^ timeWidth + (2 ^ timeWidth - b % 2 ^ timeWidth)) % 2 ^ timeWidth

/-- The raw level of this call recorded: a change restarts the window at `now` (40_debounce_gate.md R100). -/
def noteRaw (c : DebCell) (raw : Bool) (now : Nat) : DebCell :=
  if raw = c.raw then c else { c with time := now, raw := raw }

/-- Whether the level is accepted: more than DEBOUNCE_WINDOW since the last raw change, strictly (R101); `none` when `now`
is below the stored time, where the spec gives a draw (R102). -/
def acceptLevel (timeWidth : Nat) (c : DebCell) (now : Nat) : Option Bool :=
  if now < c.time then none else some (decide (windowMs < subTime timeWidth now c.time))

/-- DEB_STABLE[s] <- raw when the level is accepted (40_debounce_gate.md R100). -/
def takeStable (c : DebCell) (raw accept : Bool) : DebCell :=
  if accept then { c with stable := raw } else c

/-- An entry is a macro (chord) entry when it carries at least one chord flag (30_encoding.md R78). -/
def isChord (e : DecodedEntry) : Bool := e.ctrlChord || e.shiftChord

/-- An edge: the bit differs between PREV and CUR (00_scope.md R12). -/
def isEdge (cur prev : Bool) : Bool := cur != prev

end Sys2Proof.Machine
end

