-- ==== Sys2Proof/Machine/Assembler.lean ====
section
/-! DEFINITION. The State Assembler and the meaning of ASSEMBLE (42_state_assembler.md R140 to R148). -/

namespace Sys2Proof.Machine

/-- The fields of row r take the values of their mask bits, every other field stays: the letters of R73, the modifiers of
R74 and, for row 3, the layer selector of R75 (42_state_assembler.md R140 to R146; the table form of R148). -/
def assembleInto (r : RowIdx) (mask : Mask) (ks : KeyboardState) : KeyboardState where
  letters := Vector.ofFn fun i => if letterRow i = r then maskBit mask (letterCol i) else ks.letters[i]
  layerSelector := if r = selectorRow then layerOfBits (maskBit mask 7) (maskBit mask 4) else ks.layerSelector
  modifiers := Vector.ofFn fun m =>
    if modifierRow (modifierOf m) = r then maskBit mask (modifierCol (modifierOf m)) else ks.modifiers[m]

/-- ASSEMBLE(r, mask) writes CUR (42_state_assembler.md R140). -/
def State.assemble (r : RowIdx) (mask : Mask) (s : State) : State := s.setCur (assembleInto r mask s.cur)

/-- ASSEMBLE as a direct request: no result (R140, 45_scan_cycle.md R220). -/
def execAssemble (row : RowIdx) (mask : Mask) (s : State) : Host.Outcome State Fault Refusal :=
  .next (s.assemble row mask)

end Sys2Proof.Machine
end

