-- ==== Sys2Proof/Machine/Resolver.lean ====
section
/-! DEFINITION. The Layer Resolver and the meanings of RESOLVE and RESOLVE_SPECIAL, with MODKC (43_layer_resolver.md R160
to R165). -/

namespace Sys2Proof.Machine

/-- RESOLVE(l, i) -> (keycode, ctrl_chord, shift_chord): the layout entry, decoded (43_layer_resolver.md R160). -/
def resolveLetter (p : Params) (l : Layer) (i : LetterIdx) : DecodedEntry := decodeEntry p (romRead p l i)

/-- RESOLVE_SPECIAL(key, l): it depends only on whether the layer is Base (43_layer_resolver.md R163). -/
def resolveSpecialKey (p : Params) (key : SpecialKey) (l : Layer) : Keycode :=
  match key with
  | .question => if l = .base then p.questionKcBase else p.questionKcLayer
  | .backslash => if l = .base then p.backslashKcBase else p.backslashKcLayer

/-- MODKC(m, l) (43_layer_resolver.md R164). -/
def modKeycode (p : Params) (m : Modifier) (l : Layer) : Keycode :=
  match m with
  | .question => resolveSpecialKey p .question l
  | .backslash => resolveSpecialKey p .backslash l
  | .tab => p.modKc.tab
  | .delete => p.modKc.delete
  | .ctrl => p.modKc.ctrl
  | .shift => p.modKc.shift
  | .esc => p.modKc.esc
  | .win1 => p.modKc.win1
  | .win2 => p.modKc.win2
  | .altL => p.modKc.altL
  | .space => p.modKc.space
  | .altR => p.modKc.altR
  | .winR => p.modKc.winR
  | .compose => p.modKc.compose
  | .enter => p.modKc.enter

/-- A decoded entry as a result (43_layer_resolver.md R160). -/
def entryAnswer (e : DecodedEntry) : Answer := .resolved e.keycode e.ctrlChord e.shiftChord

/-- RESOLVE as a direct request: the triple is the result, no state is written (R160, 45_scan_cycle.md R220). -/
def execResolve (layer : Layer) (letter : LetterIdx) (s : State) : Host.Outcome State Fault Refusal :=
  .next (s.reply (entryAnswer (resolveLetter s.config.params layer letter)))

/-- RESOLVE_SPECIAL as a direct request: the keycode is the result, no state is written (R163, 45_scan_cycle.md R220). -/
def execResolveSpecial (key : SpecialKey) (layer : Layer) (s : State) : Host.Outcome State Fault Refusal :=
  .next (s.reply (.keycode (resolveSpecialKey s.config.params key layer)))

end Sys2Proof.Machine
end

