-- ==== Sys2Proof/Machine/Emitter.lean ====
section
/-! DEFINITION. The State Differ & Emitter and the meaning of EMIT (44_differ_emitter.md R180 to R196). -/

namespace Sys2Proof.Machine

/-- An event if a chord flag is set. -/
def chordEvent (flag : Bool) (e : Event) : List Event := if flag then [e] else []

/-- TAP(k, cc, sc): Ctrl then Shift pressed, the keycode pressed, held and released, Shift then Ctrl released
(44_differ_emitter.md R180, R182). -/
def tapEvents (p : Params) (e : DecodedEntry) : List Event :=
  chordEvent e.ctrlChord (.press p.chordCtrlKc) ++ chordEvent e.shiftChord (.press p.chordShiftKc) ++
    [.press e.keycode, .hold, .release e.keycode] ++
    chordEvent e.shiftChord (.release p.chordShiftKc) ++ chordEvent e.ctrlChord (.release p.chordCtrlKc)

/-- Press the keycode when the bit became set, release it when it became clear (R183, R184). -/
def pressOrRelease (set : Bool) (k : Keycode) : Event := if set then .press k else .release k

/-- The events of one letter's bit: none without an edge, a tap on any edge of a macro entry, one event otherwise; the
layer is CUR's (R180 to R183). -/
def letterEvents (p : Params) (cur prev : KeyboardState) (i : LetterIdx) : List Event :=
  if isEdge cur.letters[i] prev.letters[i] then
    let e := resolveLetter p cur.layerSelector i
    if isChord e then tapEvents p e else [pressOrRelease cur.letters[i] e.keycode]
  else []

/-- The events of one modifier's bit (R180, R184, R185). -/
def modifierEvents (p : Params) (cur prev : KeyboardState) (m : Modifier) : List Event :=
  if isEdge (cur.modifier m) (prev.modifier m) then
    [pressOrRelease (cur.modifier m) (modKeycode p m cur.layerSelector)]
  else []

/-- The events of EMIT(CUR, PREV): letters in increasing index, then modifiers in the order of 10_state.md R24 (R180). -/
def diffEvents (p : Params) (cur prev : KeyboardState) : List Event :=
  (List.finRange 30).flatMap (letterEvents p cur prev) ++ allModifiers.flatMap (modifierEvents p cur prev)

/-- EMIT(CUR, PREV): the events go to the sink one by one; no state of the block is written (R180, R189). -/
def State.emit (s : State) : State := s.emitEvents (diffEvents s.config.params s.cur s.prev)

/-- EMIT as a direct request: no result (R180, 45_scan_cycle.md R220). -/
def execEmit (s : State) : Host.Outcome State Fault Refusal := .next s.emit

end Sys2Proof.Machine
end

