-- ==== Sys2Proof/Machine/Debounce.lean ====
section
/-! DEFINITION. The Debounce Gate and the meaning of OBSERVE (40_debounce_gate.md R100 to R107). -/

namespace Sys2Proof.Machine

/-- The acceptance of this call: exact when `now >= DEB_T[s]`, a draw otherwise (40_debounce_gate.md R100, R102). -/
def State.decideAccept (c : DebCell) (now : Nat) (s : State) : Bool × State :=
  match acceptLevel s.config.params.timeWidth c now with
  | some a => (a, s)
  | none => s.drawAccept

/-- OBSERVE(s, raw, now) -> stable (40_debounce_gate.md R100). -/
def State.observe (k : SwitchIdx) (raw : Bool) (now : Nat) (s : State) : Bool × State :=
  let noted := noteRaw (s.cell k) raw now
  let (accept, s) := s.decideAccept noted now
  let cell := takeStable noted raw accept
  (cell.stable, s.setCell k cell)

/-- OBSERVE as a direct request: `now` is beside the word, the stable level is the result (R100, 45_scan_cycle.md R220). The
`now` is the environment's next reading, which the request uses up (DESIGN CHOICE, log 28). -/
def execObserve (sw : SwitchIdx) (raw : Bool) (s : State) : Host.Outcome State Fault Refusal :=
  let (now, s) := s.drawReading
  let (stable, s) := s.observe sw raw now
  .next (s.reply (.stable stable))

end Sys2Proof.Machine
end

