-- ==== Sys2Proof/Machine/Sampler.lean ====
section
/-! DEFINITION. The Matrix Sampler and the meaning of SCAN_ROW (41_matrix_sampler.md R120 to R126). -/

namespace Sys2Proof.Machine

/-- One column of SCAN_ROW: read its level and pass the raw press through the Debounce Gate (41_matrix_sampler.md R120). -/
def State.scanColumn (r : RowIdx) (now : Nat) (c : ColIdx) (s : State) : Bool × State :=
  let (level, s) := s.sense c
  s.observe (switchOf r c) (pressedLevel level) now

/-- The columns of a row, each read once, in the order of the list, into the mask (R120, R122). -/
def State.scanColumns (r : RowIdx) (now : Nat) : List ColIdx → Mask → State → Mask × State
  | [], mask, s => (mask, s)
  | c :: rest, mask, s =>
    let (b, s) := s.scanColumn r now c
    State.scanColumns r now rest (setMaskBit mask c b) s

/-- SCAN_ROW(r, now) -> mask: the row line is ACTIVE during the column reads, columns 0 to 11 (R120, R121, R122). -/
def State.scanRow (r : RowIdx) (now : Nat) (s : State) : Mask × State :=
  let (mask, s) := State.scanColumns r now (List.finRange 12) 0#12 (s.drive r .active)
  (mask, s.drive r .inactive)

/-- SCAN_ROW as a direct request: `now` and the 12 levels are beside the word, the mask is the result (R120,
45_scan_cycle.md R220). They are the environment's next reading and levels, which the request uses up (DESIGN CHOICE, log 28). -/
def execScanRow (row : RowIdx) (s : State) : Host.Outcome State Fault Refusal :=
  let (now, s) := s.drawReading
  let (mask, s) := s.scanRow row now
  .next (s.reply (.mask mask))

end Sys2Proof.Machine
end

