-- ==== Sys2Proof/Machine/Cycle.lean ====
section
/-! DEFINITION. The scan cycle: the meanings of COMMIT and CYCLE and the sequencer's step by PHASE (45_scan_cycle.md R210
to R218). -/

namespace Sys2Proof.Machine

/-- COMMIT: PREV <- CUR, all fields at once (45_scan_cycle.md R211). -/
def State.commit (s : State) : State := s.setPrev s.cur

/-- One row of the cycle: one clock reading, SCAN_ROW(r) with it, ASSEMBLE(r) of its mask (R210, R212, R214). -/
def State.scanAssemble (r : RowIdx) (s : State) : State :=
  let (now, s) := s.callNow
  let (mask, s) := s.scanRow r now
  s.assemble r mask

/-- CYCLE (45_scan_cycle.md R210). -/
def State.cycle (s : State) : State :=
  let s := (List.finRange 4).foldl (fun s r => (s.setPhase (.scan r)).scanAssemble r) s
  let s := (s.setPhase .emit).emit
  let s := (s.setPhase .commit).commit
  s.setPhase (.scan 0)

/-- The one successor of a phase (10_state.md R34, 45_scan_cycle.md R215). -/
def nextPhase (p : Phase) : Phase :=
  match p with
  | .scan r => if h : r.val < 3 then .scan ⟨r.val + 1, by omega⟩ else .emit
  | .emit => .commit
  | .commit => .scan 0

/-- One step of the running block by PHASE (45_scan_cycle.md R215). -/
def State.sequencerStep (s : State) : State :=
  let done :=
    match s.phase with
    | .scan r => s.scanAssemble r
    | .emit => s.emit
    | .commit => s.commit
  done.setPhase (nextPhase s.phase)

/-- COMMIT as a direct request: no result (R211, R220). -/
def execCommit (s : State) : Host.Outcome State Fault Refusal := .next s.commit

/-- CYCLE as a direct request: legal only at PHASE = SCAN0 (R210, R220; log 12). -/
def execCycle (s : State) : Host.Outcome State Fault Refusal :=
  if s.phase = .scan 0 then .next s.cycle else .refused (.cycleNotAtScan0 s.phase)

end Sys2Proof.Machine
end

