-- ==== Sys2Proof/Machine/Dispatch.lean ====
section
/-! DEFINITION. exec: one arm per operation of the block, each one direct call of its meaning (60_exceptions.md R246). -/

namespace Sys2Proof.Machine

def exec (i : Instr) (s : State) : Host.Outcome State Fault Refusal :=
  match i with
  | .observe sw raw => Sys2Proof.Machine.execObserve sw raw s
  | .scanRow row => Sys2Proof.Machine.execScanRow row s
  | .assemble row mask => Sys2Proof.Machine.execAssemble row mask s
  | .resolve layer letter => Sys2Proof.Machine.execResolve layer letter s
  | .resolveSpecial key layer => Sys2Proof.Machine.execResolveSpecial key layer s
  | .emit => Sys2Proof.Machine.execEmit s
  | .commit => Sys2Proof.Machine.execCommit s
  | .cycle => Sys2Proof.Machine.execCycle s

end Sys2Proof.Machine
end

