-- ==== Sys2Proof/Machine/Step.lean ====
section
/-! DEFINITION. One step of the machine: the oldest pending request, or else the sequencer's step by PHASE
(45_scan_cycle.md R215, R220). -/

namespace Sys2Proof.Machine

/-- A pending request word is decoded and run, taken from the queue; an illegal one is refused by name; with no request
pending the block goes on with its loop (45_scan_cycle.md R213, R215, R220; 30_encoding.md R81; log 3). -/
def step (s : State) : Host.Outcome State Fault Refusal :=
  match s.fetch with
  | .sequencer => .next s.sequencerStep
  | .request i s' => exec i s'
  | .illegal why => .refused (.illegalRequest why)

/-- The state with a request word placed as the oldest pending one, so that the next step runs it (log 3). -/
def State.withFetchWord (s : State) (nbits w : Nat) : State :=
  s.setRequests (BitVec.ofNat 32 (w % 2 ^ nbits) :: s.requests)

end Sys2Proof.Machine
end

