-- ==== Sys2Proof/Machine/Stimulus.lean ====
section
/-! DEFINITION. A stimulus as the program of this block (30_encoding.md R83, R84): the expansion of pseudo-lines into CYCLE
lines, the binary record of a line, the environment's answers a line stands for, and the reader of the textual syntax. -/

namespace Sys2Proof.Machine

/-- A line with `d` milliseconds added to every clock reading (30_encoding.md R84). -/
def shiftLine (d : Nat) (line : CycleLine) : CycleLine :=
  { line with t0 := line.t0 + d, t1 := line.t1 + d, t2 := line.t2 + d, t3 := line.t3 + d }

/-- The snapshot with bit r*12+c set for each listed switch and no other (30_encoding.md R84). -/
def snapshotOf (switches : List (RowIdx × ColIdx)) : BitVec 48 :=
  switches.foldl (fun h rc => h ||| BitVec.twoPow 48 (switchOf rc.1 rc.2).val) 0#48

/-- One reading for all four rows (30_encoding.md R83). -/
def lineAt (t : Nat) (pressed : BitVec 48) : CycleLine := ⟨t, t, t, t, pressed⟩

/-- The CYCLE lines a stimulus line expands to (30_encoding.md R84). A line that is not legal expands by the same rule; only
StimulusLine.wellFormed says that it is not legal (DESIGN CHOICE, log 27). -/
def expandLine : StimulusLine → List CycleLine
  | .cycle line => [line]
  | .idle t => [lineAt t 0#48]
  | .keys t switches => [lineAt t (snapshotOf switches)]
  | .repeated n line => (List.replicate n (expandLine line)).flatten
  | .repeatedStep n line d => ((List.range n).map (fun k => (expandLine line).map (shiftLine (k * d)))).flatten

/-- The CYCLE lines of a whole stimulus. -/
def expandStimulus (lines : List StimulusLine) : List CycleLine := lines.flatMap expandLine

/-- The binary record {T0, T1, T2, T3, H} of a line (30_encoding.md R83). -/
def lineRecord (timeWidth : Nat) (line : CycleLine) :
    BitVec (timeWidth + (timeWidth + (timeWidth + (timeWidth + 48)))) :=
  BitVec.ofNat timeWidth line.t0 ++ (BitVec.ofNat timeWidth line.t1 ++
    (BitVec.ofNat timeWidth line.t2 ++ (BitVec.ofNat timeWidth line.t3 ++ line.pressed)))

/-- The line a binary record stands for (30_encoding.md R83). -/
def lineOfRecord (timeWidth : Nat) (w : BitVec (timeWidth + (timeWidth + (timeWidth + (timeWidth + 48))))) : CycleLine where
  t0 := (w.extractLsb' (48 + 3 * timeWidth) timeWidth).toNat
  t1 := (w.extractLsb' (48 + 2 * timeWidth) timeWidth).toNat
  t2 := (w.extractLsb' (48 + timeWidth) timeWidth).toNat
  t3 := (w.extractLsb' 48 timeWidth).toNat
  pressed := w.extractLsb' 0 48

/-- The level a snapshot gives a switch: 1 = LOW, 0 = HIGH (30_encoding.md R83). -/
def snapshotLevel (pressed : BitVec 48) (k : SwitchIdx) : LineLevel := if pressed.getLsbD k.val then .low else .high

/-- The 48 levels of a snapshot in the order a cycle senses them: rows 0 to 3, columns 0 to 11 (45_scan_cycle.md R214). -/
def snapshotLevels (pressed : BitVec 48) : List LineLevel := (List.finRange 48).map (snapshotLevel pressed)

/-- A line put at the end of what the environment will answer (30_encoding.md R83; log 15). -/
def State.loadLine (line : CycleLine) (s : State) : State :=
  s.setEnv { s.env with
    readings := s.env.readings ++ line.readings
    levels := s.env.levels ++ snapshotLevels line.pressed }

/-- A whole stimulus put at the end of what the environment will answer (log 15), its lines legal or not (DESIGN CHOICE,
log 27). -/
def State.loadStimulus (lines : List StimulusLine) (s : State) : State :=
  (expandStimulus lines).foldl (fun s line => s.loadLine line) s

/-! ### The textual syntax (30_encoding.md R83, R84; log 14) -/

/-- The digits of a snapshot (30_encoding.md R83), each at the place of its value; a decimal number uses the first ten. -/
def digitSymbols : List Char := "0123456789ABCDEF".toList

/-- The value of a digit among the first `base` symbols; a letter may be small (DESIGN CHOICE, log 14). -/
def digitValue (base : Nat) (c : Char) : Option Nat := (digitSymbols.take base).idxOf? c.toUpper

/-- A number from its digits, most significant first, `none` where a character is no digit. -/
def readDigits (base : Nat) : List Char → Nat → Option Nat
  | [], n => some n
  | c :: rest, n => (digitValue base c).bind fun d => readDigits base rest (n * base + d)

/-- A decimal number: at least one digit. -/
def readDecimal (cs : List Char) : Option Nat := if cs = [] then none else readDigits 10 cs 0

/-- A snapshot: exactly 12 hexadecimal digits (30_encoding.md R83). -/
def readSnapshot (cs : List Char) : Option (BitVec 48) :=
  if cs.length = 12 then (readDigits 16 cs 0).map (BitVec.ofNat 48) else none

/-- The pieces of a text between the characters a test picks out, empty pieces kept. -/
def splitAtChar (stop : Char → Bool) : List Char → List Char → List (List Char)
  | [], piece => [piece.reverse]
  | c :: rest, piece => if stop c then piece.reverse :: splitAtChar stop rest [] else splitAtChar stop rest (c :: piece)

/-- Every piece read, or none. -/
def readAll {α β : Type} (read : α → Option β) : List α → Option (List β)
  | [] => some []
  | p :: rest =>
    match read p, readAll read rest with
    | some a, some more => some (a :: more)
    | _, _ => none

/-- The text before a `;`, which starts a comment (30_encoding.md R83). -/
def dropComment (cs : List Char) : List Char := cs.takeWhile (· != ';')

/-- The words of a line: the pieces between spaces that are not empty; no other character parts words (DESIGN CHOICE, log 14). -/
def lineWords (cs : List Char) : List (List Char) := (splitAtChar (· == ' ') (dropComment cs) []).filter (· != [])

/-- The rest of a word that begins as given. -/
def afterLabel : List Char → List Char → Option (List Char)
  | [], w => some w
  | l :: ls, c :: w => if l = c then afterLabel ls w else none
  | _ :: _, [] => none

/-- `t=<T>` or `t=<T0>,<T1>,<T2>,<T3>`: four readings. -/
def readReadings (w : List Char) : Option (Nat × Nat × Nat × Nat) :=
  match (afterLabel ['t', '='] w).bind (fun rest => readAll readDecimal (splitAtChar (· == ',') rest [])) with
  | some [t] => some (t, t, t, t)
  | some [a, b, c, d] => some (a, b, c, d)
  | _ => none

/-- `t=<T>`: one reading. -/
def readReading (w : List Char) : Option Nat := (afterLabel ['t', '='] w).bind readDecimal

/-- A switch of a KEYS list from its row and column texts, which must be in range (60_exceptions.md R231). -/
def readSwitch (r c : List Char) : Option (RowIdx × ColIdx) :=
  match readDecimal r, readDecimal c with
  | some r, some c => if h : r < 4 ∧ c < 12 then some (⟨r, h.1⟩, ⟨c, h.2⟩) else none
  | _, _ => none

/-- `(r,c)`: one item of a KEYS list. -/
def readItem (cs : List Char) : Option (RowIdx × ColIdx) :=
  match afterLabel ['('] cs with
  | some body =>
    match splitAtChar (· == ',') body [] with
    | [r, c] => readSwitch r c
    | _ => none
  | none => none

/-- A text without the spaces it begins with. -/
def dropSpaces (cs : List Char) : List Char := cs.dropWhile (· == ' ')

/-- `(r,c),(r,c),...`: the items end in a closing parenthesis, with a comma between them. Spaces may stand around that
comma and nowhere inside an item (DESIGN CHOICE, log 14). -/
def readItems : List (List Char) → Bool → Option (List (RowIdx × ColIdx))
  | [], _ => none
  | [last], _ => if dropSpaces last = [] then some [] else none
  | item :: rest, first =>
    match if first then some item else afterLabel [','] (dropSpaces item) with
    | none => none
    | some item =>
      match readItem (dropSpaces item), readItems rest false with
      | some rc, some more => some (rc :: more)
      | _, _ => none

/-- The switches of a KEYS line, from the words after its reading, put together again with a space between them; an empty
list is IDLE's snapshot (30_encoding.md R84). -/
def readKeys (words : List (List Char)) : Option (List (RowIdx × ColIdx)) :=
  match words with
  | [] => some []
  | _ :: _ => readItems (splitAtChar (· == ')') (words.intersperse [' ']).flatten []) true

/-- The words of one line without REPEAT (30_encoding.md R83, R84). -/
def readPlainLine (words : List (List Char)) : Option StimulusLine :=
  match words with
  | [name, t, p] =>
    if name = "CYCLE".toList then
      match readReadings t, (afterLabel ['P', '='] p).bind readSnapshot with
      | some (a, b, c, d), some h => some (.cycle ⟨a, b, c, d, h⟩)
      | _, _ => none
    else if name = "KEYS".toList then
      match readReading t, readKeys [p] with
      | some t, some switches => some (.keys t switches)
      | _, _ => none
    else none
  | [name, t] =>
    if name = "IDLE".toList then (readReading t).map .idle
    else if name = "KEYS".toList then (readReading t).map (fun t => .keys t [])
    else none
  | name :: t :: more =>
    if name = "KEYS".toList then
      match readReading t, readKeys more with
      | some t, some switches => some (.keys t switches)
      | _, _ => none
    else none
  | _ => none

/-- The words of one line; `fuel` bounds the REPEATs before it (30_encoding.md R84). Where a REPEAT stands inside a REPEAT,
the last STEP belongs to the outermost one, so that a single STEP is never the inner one's (DESIGN CHOICE, log 14).
A REPEAT that R84 calls not legal is read like any other (DESIGN CHOICE, log 27). -/
def readLine : Nat → List (List Char) → Option StimulusLine
  | 0, _ => none
  | fuel + 1, words =>
    match words with
    | name :: n :: rest =>
      if name = "REPEAT".toList then
        match readDecimal n, rest.reverse with
        | some n, d :: step :: before =>
          if step = "STEP".toList then
            match readDecimal d, readLine fuel before.reverse with
            | some d, some line => some (.repeatedStep n line d)
            | _, _ => none
          else (readLine fuel rest).map (.repeated n)
        | _, _ => none
      else readPlainLine words
    | _ => none

/-- The words of one line of the textual stimulus syntax, if they are one (30_encoding.md R83, R84). -/
def readStimulusWords (words : List (List Char)) : Option StimulusLine := readLine (words.length + 1) words

/-- One line of the textual stimulus syntax, if it is one (30_encoding.md R83, R84). A blank line and a line that holds only
a comment are no stimulus line, and this reader answers none for them too (DESIGN CHOICE, log 14). -/
def readStimulusLine (text : String) : Option StimulusLine := readStimulusWords (lineWords text.toList)

/-- A whole stimulus from its text, line by line; none if a line is ill-formed (30_encoding.md R83). Blank lines and lines
that hold only a comment are passed over (DESIGN CHOICE, log 14). -/
def readStimulus (text : String) : Option (List StimulusLine) :=
  readAll readStimulusWords (((splitAtChar (· == '\n') text.toList []).map lineWords).filter (· != []))

end Sys2Proof.Machine
end

