-- ==== Sys2Proof/Safety.lean ====
section
/-! DEFINITION. What counts as a safe run, in the terms claims use: a step that goes on, the invariant of the whole machine
(10_state.md R29, R33; 60_exceptions.md R240), and the invariant of the running loop with no direct requests
(45_scan_cycle.md R215, R220). -/

namespace Sys2Proof.Machine

/-- The machine goes on from here: its step is neither a fault nor a refusal (45_scan_cycle.md R215). -/
def State.GoesOn (s : State) : Prop := ∃ t, step s = .next t

/-- Outside SCAN_ROW all four row lines are INACTIVE (10_state.md R33). -/
def State.LinesInactive (s : State) : Prop := ∀ r : RowIdx, s.rowLine[r] = .inactive

/-- Every stored timestamp is a TIME_WIDTH-bit value (10_state.md R29). -/
def State.TimesFit (s : State) : Prop := ∀ k : SwitchIdx, s.debT[k] < 2 ^ s.config.params.timeWidth

/-- HOSTSET is what the output trace makes of the empty set (60_exceptions.md R240). -/
def State.HostFollowsTrace (s : State) : Prop := s.hostSet = hostAfter s.trace

/-- ROW_LINE is what the Drive calls make of four INACTIVE lines (10_state.md R33). -/
def State.LinesFollowCalls (s : State) : Prop := s.rowLine = linesAfter s.calls (Vector.replicate 4 .inactive)

/-- The invariant of the machine: it holds at reset and every step keeps it. -/
structure State.Inv (s : State) : Prop where
  linesInactive : s.LinesInactive
  timesFit : s.TimesFit
  hostSetSorted : hostSetWf s.hostSet
  hostFollowsTrace : s.HostFollowsTrace
  linesFollowCalls : s.LinesFollowCalls

/-- CUR shows the accepted level of every switch that feeds one of its bits (10_state.md R26, R31; 92_eei_decisions.md D5). -/
def State.CurMirrorsStable (s : State) : Prop :=
  ∀ (k : SwitchIdx) (b : Bool), s.cur.fedBy k = some b → b = s.debStable[k]

/-- The invariant of the running loop: no direct request pending, CUR mirrors the accepted levels, and at the start of a
cycle PREV is CUR (10_state.md R27, 45_scan_cycle.md R211). -/
structure State.LoopInv (s : State) : Prop where
  noRequests : s.requests = []
  curMirrorsStable : s.CurMirrorsStable
  prevIsCur : s.phase = .scan 0 → s.prev = s.cur

end Sys2Proof.Machine
end

