-- ==== Sys2Proof/Certificates/Slice0/Obligations.lean ====
section
/-! DEFINITION. The statements about the model, each a proposition named Obligations.<what it says>, after the few notions
they are written in. Each docstring names the rule of spec/ it formalises. -/

namespace Sys2Proof.Claims

open Sys2Proof.Machine

/-- What one call of the Debounce Gate does to one switch's timestamp, raw level and stable level (40_debounce_gate.md R100,
R101, R102): a raw change stores `now`; the level is accepted exactly when more than 15 ms have passed since the stored
time, and when `now` is below it the acceptance is open. -/
def GateUpdate (raw : Bool) (now t : Nat) (r st : Bool) (t' : Nat) (r' st' : Bool) : Prop :=
  r' = raw ∧ t' = (if raw = r then t else now) ∧
    ∃ accept : Bool, (t' ≤ now → accept = decide (15 < now - t')) ∧ st' = if accept then raw else st

/-- The reading a state's environment answers next, where it lists one, as the TIME_WIDTH-bit value the block gets. -/
def NextReading (s : State) (now : Nat) : Prop :=
  now < 2 ^ s.config.params.timeWidth ∧
    ∀ t rest, s.env.readings = t :: rest → now = t % 2 ^ s.config.params.timeWidth

/-- Run direct requests one after another; `none` when one does not go on. -/
def runAll : List Instr → State → Option State
  | [], s => some s
  | i :: rest, s =>
    match exec i s with
    | .next u => runAll rest u
    | .fault _ => none
    | .refused _ => none

/-- The events EMIT appends to the output trace from this state. -/
def emitted (s : State) : List Event :=
  match exec .emit s with
  | .next u => u.trace.drop s.trace.length
  | .fault _ => []
  | .refused _ => []

/-- The entry of letter i under CUR's layer, from the layout table (20_memory.md R51). -/
def curEntry (s : State) (i : LetterIdx) : Entry := (s.config.params.layout[s.cur.layerSelector.code])[i]

/-- The entry's keycode: its low KC_BITS bits (30_encoding.md R77). -/
def curKeycode (s : State) (i : LetterIdx) : Keycode := curEntry s i % 2 ^ s.config.params.kcBits

/-- The entry's Ctrl flag (30_encoding.md R77). -/
def curCtrl (s : State) (i : LetterIdx) : Bool := (curEntry s i).testBit s.config.params.ctrlFlagPos

/-- The entry's Shift flag (30_encoding.md R77). -/
def curShift (s : State) (i : LetterIdx) : Bool := (curEntry s i).testBit s.config.params.shiftFlagPos

/-- CUR and PREV differ in the bit of letter i and in no other letter and no modifier. -/
def OnlyLetterDiffers (s : State) (i : LetterIdx) : Prop :=
  s.cur.letters[i] ≠ s.prev.letters[i] ∧ (∀ j : LetterIdx, j ≠ i → s.cur.letters[j] = s.prev.letters[j]) ∧
    s.cur.modifiers = s.prev.modifiers

/-- CUR and PREV differ in the bit of modifier m and in no other modifier and no letter. -/
def OnlyModifierDiffers (s : State) (m : Modifier) : Prop :=
  s.cur.modifier m ≠ s.prev.modifier m ∧ (∀ n, n ≠ m → s.cur.modifier n = s.prev.modifier n) ∧
    s.cur.letters = s.prev.letters

/-- The keycode bound to a modifier under a layer (43_layer_resolver.md R164, 20_memory.md R52, R53). -/
def boundKeycode (p : Params) (l : Layer) : Modifier → Keycode
  | .tab => p.modKc.tab
  | .delete => p.modKc.delete
  | .ctrl => p.modKc.ctrl
  | .backslash => if l = .base then p.backslashKcBase else p.backslashKcLayer
  | .shift => p.modKc.shift
  | .question => if l = .base then p.questionKcBase else p.questionKcLayer
  | .esc => p.modKc.esc
  | .win1 => p.modKc.win1
  | .win2 => p.modKc.win2
  | .altL => p.modKc.altL
  | .space => p.modKc.space
  | .altR => p.modKc.altR
  | .winR => p.modKc.winR
  | .compose => p.modKc.compose
  | .enter => p.modKc.enter

/-- The five or seven events of a tap, spelled out by its chord flags (44_differ_emitter.md R182). -/
def tapSequence (ctrl shift k : Keycode) : Bool → Bool → List Event
  | true, true => [.press ctrl, .press shift, .press k, .hold, .release k, .release shift, .release ctrl]
  | true, false => [.press ctrl, .press k, .hold, .release k, .release ctrl]
  | false, true => [.press shift, .press k, .hold, .release k, .release shift]
  | false, false => [.press k, .hold, .release k]

/-- The tap of letter i's entry under CUR's layer (44_differ_emitter.md R182). -/
def letterTap (s : State) (i : LetterIdx) : List Event :=
  tapSequence s.config.params.chordCtrlKc s.config.params.chordShiftKc (curKeycode s i) (curCtrl s i) (curShift s i)

/-- The first n letters of a KeyboardState over the others of a second one. -/
def lettersUpTo (n : Nat) (a b : KeyboardState) : KeyboardState :=
  { b with layerSelector := a.layerSelector, letters := Vector.ofFn fun i => if i.val < n then a.letters[i] else b.letters[i] }

/-- All letters and the first n modifiers of a KeyboardState over the other modifiers of a second one. -/
def modifiersUpTo (n : Nat) (a b : KeyboardState) : KeyboardState :=
  { a with modifiers := Vector.ofFn fun m => if m.val < n then a.modifiers[m] else b.modifiers[m] }

/-- The keycode of a sink call; a hold carries none. -/
def eventKeycodes : Event → List Keycode
  | .press k => [k]
  | .release k => [k]
  | .hold => []

/-- The sink calls of a trace: every event but the holds (00_scope.md R11). -/
def sinkCalls (events : List Event) : Nat := (events.flatMap eventKeycodes).length

/-- The sink calls a letter's edge makes (44_differ_emitter.md R196). -/
def letterCallCount (s : State) (i : LetterIdx) : Nat :=
  if s.cur.letters[i] = s.prev.letters[i] then 0
  else if curCtrl s i = false ∧ curShift s i = false then 1
  else 2 + 2 * ((curCtrl s i).toNat + (curShift s i).toNat)

/-- A switch's raw levels with their times keep every stretch away from level b no longer than the window: `start` is the
time the present stretch began (40_debounce_gate.md R104). -/
def ShortPulses (b : Bool) : Option Nat → List (Bool × Nat) → Prop
  | _, [] => True
  | start, (raw, t) :: rest =>
    if raw = b then ShortPulses b none rest
    else t - start.getD t ≤ 15 ∧ ShortPulses b (some (start.getD t)) rest

/-- The successor of a phase, spelled out (10_state.md R34). -/
def successor : Phase → Phase
  | .scan 0 => .scan 1
  | .scan 1 => .scan 2
  | .scan 2 => .scan 3
  | .scan 3 => .emit
  | .emit => .commit
  | .commit => .scan 0

/-- The reading of a stimulus line for a row (30_encoding.md R83). -/
def lineReading (line : CycleLine) : RowIdx → Nat
  | 0 => line.t0
  | 1 => line.t1
  | 2 => line.t2
  | 3 => line.t3

end Sys2Proof.Claims

open Sys2Proof Sys2Proof.Machine Sys2Proof.Claims

/-! ### Encoding (30_encoding.md R80 to R84, 10_state.md R28) -/

/-- Decoding the encoded word of any instruction gives that instruction, over a word and over its bytes (R80, R82). -/
def Obligations.DecodeEncodeRoundTrip : Prop :=
  ∀ i : Instr, decodeWord (encode i) = .ok i ∧ ∀ rest, decodeBytes (wordBytes (encode i) ++ rest) = .ok (i, rest)

/-- A word that decodes is the encoding of what it decodes to: no two words spell one operation (R80, R81). -/
def Obligations.DecodedWordIsItsEncoding : Prop :=
  ∀ (w : ReqWord) (i : Instr), decodeWord w = .ok i → encode i = w

/-- The decoder accepts exactly the words that match a row of the opcode table and spell no index out of range; at most one
row matches (R80, R81). -/
def Obligations.DecoderAcceptsExactlyLegalWords : Prop :=
  (∀ w : ReqWord, (∃ i, decodeWord w = .ok i) ↔ legalWord w = true) ∧
  (∀ (w : ReqWord) (a b : OpcodeRow), a ∈ opcodeTable → b ∈ opcodeTable → a.matchesWord w = true → b.matchesWord w = true → a = b)

/-- Illegal words are refused by name: a 1 in a must-be-zero field, OBSERVE with s >= 48, RESOLVE with i >= 30; every
operation code is assigned (R81). The names, and that a word illegal in two ways is refused for its must-be-zero field, are
the model's choice (log 26). -/
def Obligations.IllegalWordsRefusedByName : Prop :=
  (∀ (w : ReqWord) (row : OpcodeRow), row ∈ opcodeTable → w &&& 7#32 = row.pattern → row.matchesWord w = false →
    decodeWord w = .error (.mustBeZero row.mnemonic)) ∧
  (∀ s : Nat, 48 ≤ s → s < 64 → ∀ raw : Bool,
    decodeWord (BitVec.ofNat 32 (s * 8 + raw.toNat * 512)) = .error (.switchOutOfRange s)) ∧
  (∀ i : Nat, 30 ≤ i → i < 32 → ∀ l : Layer,
    decodeWord (BitVec.ofNat 32 (3 + l.code.val * 8 + i * 32)) = .error (.letterOutOfRange i)) ∧
  (∀ w : ReqWord, ∃ row ∈ opcodeTable, w &&& 7#32 = row.pattern)

/-- Words written out from the spec's encoding of each operation decode to it (R80; 95_test_vectors.md 2.1; the names of
the refusals are the model's, log 26). -/
def Obligations.SpecWordsDecode : Prop :=
  decodeWord 0x00000228#32 = .ok (.observe 5 true) ∧ decodeWord 0x00000019#32 = .ok (.scanRow 3) ∧
  decodeWord 0x0001002A#32 = .ok (.assemble 1 0x801#12) ∧ decodeWord 0x000003BB#32 = .ok (.resolve .layerRL 29) ∧
  decodeWord 0x0000003C#32 = .ok (.resolveSpecial .backslash .layerRL) ∧ decodeWord 0x00000005#32 = .ok .emit ∧
  decodeWord 0x00000006#32 = .ok .commit ∧ decodeWord 0x00000007#32 = .ok .cycle ∧
  decodeWord 0x00000180#32 = .error (.switchOutOfRange 48) ∧ decodeWord 0x0000000F#32 = .error (.mustBeZero "CYCLE")

/-- Unpacking a packed KeyboardState gives it back, and every 47-bit word is the packing of one (10_state.md R28). -/
def Obligations.PackedKeyboardStateRoundTrip : Prop :=
  (∀ ks : KeyboardState, KeyboardState.unpack ks.pack = ks) ∧ (∀ w : BitVec 47, (KeyboardState.unpack w).pack = w)

/-- The binary record of a stimulus line whose readings fit gives the line back (30_encoding.md R83). -/
def Obligations.StimulusRecordRoundTrip : Prop :=
  ∀ (w : Nat) (line : CycleLine), (StimulusLine.cycle line).wellFormed w = true → lineOfRecord w (lineRecord w line) = line

/-- The pseudo-lines expand as R84 says: IDLE presses nothing, KEYS sets exactly the listed switches' bits, REPEAT makes n
copies, with STEP the k-th copy k*d milliseconds later. That REPEAT 0 gives no line (log 14) and that a REPEAT which R84
calls not legal expands by the same rule (log 27) is the model's choice (DESIGN CHOICE). -/
def Obligations.PseudoLinesExpand : Prop :=
  (∀ t, expandLine (.idle t) = [⟨t, t, t, t, 0#48⟩]) ∧
  (∀ t, expandLine (.keys t []) = expandLine (.idle t)) ∧
  (∀ t switches, ∃ h, expandLine (.keys t switches) = [⟨t, t, t, t, h⟩] ∧
    ∀ k : SwitchIdx, h.getLsbD k.val = true ↔ ∃ rc ∈ switches, rc.1.val * 12 + rc.2.val = k.val) ∧
  (∀ line d, expandLine (.repeated 0 line) = [] ∧ expandLine (.repeatedStep 0 line d) = []) ∧
  (∀ n line, expandLine (.repeated (n + 1) line) = expandLine (.repeated n line) ++ expandLine line) ∧
  (∀ n line d, expandLine (.repeatedStep (n + 1) line d) = expandLine (.repeatedStep n line d) ++
    (expandLine line).map fun c => ⟨c.t0 + n * d, c.t1 + n * d, c.t2 + n * d, c.t3 + n * d, c.pressed⟩)

/-! ### The step (45_scan_cycle.md R215, R216, R220) -/

/-- When the oldest pending request word decodes to an instruction, a step takes the word from the queue and is exec of that
instruction there, with nothing else around it; an illegal word is refused by name (R220; 30_encoding.md R81). -/
def Obligations.StepRunsTheDecodedRequest : Prop :=
  ∀ (s : State) (w : ReqWord) (rest : List ReqWord), s.requests = w :: rest →
    (∀ i, decodeWord w = .ok i → step s = exec i { s with requests := rest }) ∧
    (∀ why, decodeWord w = .error why → step s = .refused (.illegalRequest why))

/-- The sequencer (R215): with no request pending, at SCANr one step performs SCAN_ROW(r), with a clock reading taken just
before, and ASSEMBLE(r) of its mask; at EMIT it performs EMIT; at COMMIT it performs COMMIT; it sets PHASE to the one
successor, and every step is enabled. That a SCAN_ROW as a request takes its operands where the sequencer takes its draws is
the model's choice (log 28). -/
def Obligations.SequencerRunsPhaseOperation : Prop :=
  ∀ s : State, s.requests = [] →
    (∀ r, s.phase = .scan r → ∃ t u mask, exec (.scanRow r) { s with calls := s.calls ++ [.now] } = .next t ∧
      t.answers = s.answers ++ [.mask mask] ∧ exec (.assemble r mask) t = .next u ∧
      step s = .next { u with answers := s.answers, phase := successor s.phase }) ∧
    (s.phase = .emit → ∃ u, exec .emit s = .next u ∧ step s = .next { u with phase := successor s.phase }) ∧
    (s.phase = .commit → ∃ u, exec .commit s = .next u ∧ step s = .next { u with phase := successor s.phase })

/-- One atomic CYCLE equals its six sequencer steps in order: same end state, trace and row-line sequence (R216). -/
def Obligations.CycleEqualsSixSequencerSteps : Prop :=
  ∀ s : State, s.requests = [] → s.phase = .scan 0 →
    ∃ u, exec .cycle s = .next u ∧ Host.Core.run core 6 s = .next u

/-- A direct CYCLE is legal only at PHASE = SCAN0, leaves PHASE = SCAN0, and is refused by name at every other phase (R220;
the refusal's name is the model's, log 12). -/
def Obligations.DirectCycleOnlyAtScan0 : Prop :=
  ∀ s : State, (s.phase = .scan 0 → ∃ u, exec .cycle s = .next u ∧ u.phase = .scan 0) ∧
    (s.phase ≠ .scan 0 → exec .cycle s = .refused (.cycleNotAtScan0 s.phase))

/-- Every direct request but CYCLE goes on in every state, and neither reads nor writes PHASE (R220). -/
def Obligations.DirectRequestsIgnorePhase : Prop :=
  ∀ (i : Instr) (s : State) (p : Phase), i ≠ .cycle →
    ∃ u, exec i s = .next u ∧ u.phase = s.phase ∧ exec i { s with phase := p } = .next { u with phase := p }

/-- The only outcome of a step that is not a next state is a refusal of the oldest request: an illegal word, or CYCLE away
from SCAN0, and each of those is refused; there is no fault (60_exceptions.md R230, R236). -/
def Obligations.StepStopsOnlyByRefusal : Prop :=
  ∀ s : State, ((∃ u, step s = .next u) ∨ ∃ r, step s = .refused r) ∧
    ((∃ r, step s = .refused r) ↔
      ∃ w rest, s.requests = w :: rest ∧ (legalWord w = false ∨ w = 7#32 ∧ s.phase ≠ .scan 0))

/-! ### Debounce Gate (40_debounce_gate.md R100 to R107) -/

/-- OBSERVE goes on in every state: it puts the switch's record through the gate with the next clock reading, gives the
stable level back, and changes nothing else but the environment's answers taken (R100). That the reading beside the request
is the environment's next one is the model's choice (log 28). -/
def Obligations.ObserveResult : Prop :=
  ∀ (k : SwitchIdx) (raw : Bool) (s : State), ∃ now t r st e,
    NextReading s now ∧ GateUpdate raw now s.debT[k] s.debRaw[k] s.debStable[k] t r st ∧ e.levels = s.env.levels ∧
    exec (.observe k raw) s = .next { s with
      debT := s.debT.set k.val t k.isLt
      debRaw := s.debRaw.set k.val r k.isLt
      debStable := s.debStable.set k.val st k.isLt
      env := e
      answers := s.answers ++ [.stable st] }

/-- The window is strict (R101): after a raw change at time T, calls with the same raw level up to T + 15 return the old
stable level, and calls at T + 16 or later the new one. The readings are given as the environment's next ones (log 28). -/
def Obligations.DebounceWindowIsStrict : Prop :=
  ∀ (k : SwitchIdx) (raw : Bool) (s : State) (t : Nat) (later rest : List Nat),
    raw ≠ s.debRaw[k] → s.env.readings = t :: later ++ rest → (t :: later).Pairwise (· ≤ ·) →
    (∀ n ∈ t :: later, n < 2 ^ s.config.params.timeWidth) →
    ∃ u, runAll (List.replicate (later.length + 1) (.observe k raw)) s = some u ∧
      u.answers = s.answers ++ .stable s.debStable[k] ::
        later.map fun n => .stable (if n < t + 16 then s.debStable[k] else raw)

/-- A bounce that always comes back to the stable level within the window is never reported (R104); readings as in log 28. -/
def Obligations.ShortPulsesAreNeverReported : Prop :=
  ∀ (k : SwitchIdx) (b : Bool) (s : State) (observations : List (Bool × Nat)) (rest : List Nat),
    s.debRaw[k] = b → s.debStable[k] = b → s.env.readings = observations.map (·.2) ++ rest →
    (s.debT[k] :: observations.map (·.2)).Pairwise (· ≤ ·) →
    (∀ o ∈ observations, o.2 < 2 ^ s.config.params.timeWidth) → ShortPulses b none observations →
    ∃ u, runAll (observations.map fun o => .observe k o.1) s = some u ∧
      u.answers = s.answers ++ observations.map fun _ => .stable b

/-- Once a level is accepted, every later call with the same raw level and a reading not below the stored time returns it
again and leaves the debounce state unchanged (R105); the reading as in log 28. -/
def Obligations.AcceptedLevelIsReturnedAgain : Prop :=
  ∀ (k : SwitchIdx) (raw : Bool) (s : State) (t : Nat) (rest : List Nat),
    s.debRaw[k] = raw → s.debStable[k] = raw → s.env.readings = t :: rest →
    s.debT[k] ≤ t % 2 ^ s.config.params.timeWidth →
    exec (.observe k raw) s =
      .next { s with env := { s.env with readings := rest }, answers := s.answers ++ [.stable raw] }

/-- The call that sees the raw level change returns the old stable level and never accepts the new one, and DEB_STABLE only
ever takes the value of DEB_RAW (R103). -/
def Obligations.ChangeIsNeverAcceptedAtOnce : Prop :=
  ∀ (k : SwitchIdx) (raw : Bool) (s : State), ∃ u, exec (.observe k raw) s = .next u ∧
    (raw ≠ s.debRaw[k] → u.answers = s.answers ++ [.stable s.debStable[k]] ∧ u.debStable = s.debStable) ∧
    (u.debStable[k] ≠ s.debStable[k] → u.debStable[k] = u.debRaw[k] ∧ s.debRaw[k] = u.debRaw[k])

/-- OBSERVE reads and writes only element s of the debounce arrays: two states that agree on the configuration, the
environment and that element give the same result and the same element, and every other element stays (R106). -/
def Obligations.ObserveDependsOnItsSwitchAlone : Prop :=
  ∀ (k : SwitchIdx) (raw : Bool) (s s' : State), s.config = s'.config → s.env = s'.env → s.debT[k] = s'.debT[k] →
    s.debRaw[k] = s'.debRaw[k] → s.debStable[k] = s'.debStable[k] →
    ∃ u u' b, exec (.observe k raw) s = .next u ∧ exec (.observe k raw) s' = .next u' ∧
      u.answers = s.answers ++ [.stable b] ∧ u'.answers = s'.answers ++ [.stable b] ∧ u.env = u'.env ∧
      u.debT[k] = u'.debT[k] ∧ u.debRaw[k] = u'.debRaw[k] ∧ u.debStable[k] = u'.debStable[k] ∧
      ∀ j : SwitchIdx, j ≠ k → u.debT[j] = s.debT[j] ∧ u.debRaw[j] = s.debRaw[j] ∧ u.debStable[j] = s.debStable[j]

/-- When the reading is below the stored time the acceptance is a draw: either outcome is admitted, and the one the
environment draws is taken (R102); the reading as in log 28, the draw as in log 5. -/
def Obligations.WrapAcceptanceIsADraw : Prop :=
  ∀ (k : SwitchIdx) (raw accept : Bool) (s : State) (t : Nat) (rest : List Nat) (draws : List Bool),
    s.debRaw[k] = raw → s.env.readings = t :: rest → t % 2 ^ s.config.params.timeWidth < s.debT[k] →
    s.env.accepts = accept :: draws →
    ∃ u, exec (.observe k raw) s = .next u ∧
      u.debStable = s.debStable.set k.val (if accept then raw else s.debStable[k]) k.isLt ∧
      u.answers = s.answers ++ [.stable (if accept then raw else s.debStable[k])] ∧
      u.debT = s.debT ∧ u.debRaw = s.debRaw ∧ u.env.accepts = draws

/-! ### Matrix Sampler (41_matrix_sampler.md R120 to R125) -/

/-- SCAN_ROW goes on in every state: each of the row's 12 switches, the unused one too, goes once through the gate with the
one reading and the level its column gave, mask bit c is the stable level of switch (r, c), and the mask is the result
(R120, R123; 30_encoding.md R71, R72). That the reading and the levels beside the request are the environment's next ones is
the model's choice (log 28). -/
def Obligations.ScanRowResult : Prop :=
  ∀ (r : RowIdx) (s : State), ∃ (now : Nat) (raw : ColIdx → Bool) (mask : Mask) (u : State),
    exec (.scanRow r) s = .next u ∧ NextReading s now ∧
    u.answers = s.answers ++ [.mask mask] ∧
    (∀ c : ColIdx, GateUpdate (raw c) now s.debT[switchOf r c] s.debRaw[switchOf r c] s.debStable[switchOf r c]
      u.debT[switchOf r c] u.debRaw[switchOf r c] u.debStable[switchOf r c]) ∧
    (∀ c : ColIdx, mask.getLsbD c.val = u.debStable[switchOf r c]) ∧
    (∀ (lv : Vector LineLevel 12) (rest : List LineLevel), s.env.levels = lv.toList ++ rest →
      u.env.levels = rest ∧ ∀ c : ColIdx, raw c = decide (lv[c] = .low))

/-- The external calls of SCAN_ROW(r) are Drive(r, ACTIVE), Sense(0), ..., Sense(11), Drive(r, INACTIVE); row line r is
ACTIVE, and the other three INACTIVE, from before the first column read until after the last; then all four are INACTIVE
(R121, R122; 10_state.md R33). -/
def Obligations.ScanRowDrivesItsLineOnly : Prop :=
  ∀ (r : RowIdx) (s : State), s.LinesInactive → ∃ u made, exec (.scanRow r) s = .next u ∧ u.calls = s.calls ++ made ∧
    made = .drive r .active :: ((List.finRange 12).map Call.sense ++ [.drive r .inactive]) ∧
    (∀ n, 1 ≤ n → n ≤ 13 → ∀ r' : RowIdx,
      (linesAfter (made.take n) s.rowLine)[r'] = if r' = r then RowLevel.active else RowLevel.inactive) ∧
    u.LinesInactive

/-- SCAN_ROW(r) leaves every other row's records and line, CUR, PREV, PHASE, HOSTSET, the output trace, the configuration
and the pending requests unchanged (R120; 10_state.md R20). -/
def Obligations.ScanRowLeavesTheRest : Prop :=
  ∀ (r : RowIdx) (s : State), ∃ u, exec (.scanRow r) s = .next u ∧ u.config = s.config ∧ u.cur = s.cur ∧ u.prev = s.prev ∧
    u.phase = s.phase ∧ u.hostSet = s.hostSet ∧ u.trace = s.trace ∧ u.requests = s.requests ∧
    (∀ r' : RowIdx, r' ≠ r → u.rowLine[r'] = s.rowLine[r']) ∧
    (∀ k : SwitchIdx, k.val / 12 ≠ r.val →
      u.debT[k] = s.debT[k] ∧ u.debRaw[k] = s.debRaw[k] ∧ u.debStable[k] = s.debStable[k])

/-! ### State Assembler (42_state_assembler.md R140 to R147) -/

/-- ASSEMBLE writes its row's fields from the mask, row by row as R141 to R144 list them; row 3 writes no letters and bit 5
is read by nothing. -/
def Obligations.AssembleWritesItsRow : Prop :=
  ∀ (s : State) (mask : Mask), ∃ u0 u1 u2 u3,
    exec (.assemble 0 mask) s = .next u0 ∧ exec (.assemble 1 mask) s = .next u1 ∧ exec (.assemble 2 mask) s = .next u2 ∧
    exec (.assemble 3 mask) s = .next u3 ∧
    (∀ (j : Nat) (h : j < 10), u0.cur.letters[j] = mask.getLsbD (j + 1) ∧ u1.cur.letters[10 + j] = mask.getLsbD (j + 1) ∧
      u2.cur.letters[20 + j] = mask.getLsbD (j + 1)) ∧
    u0.cur.modifier .tab = mask.getLsbD 0 ∧ u0.cur.modifier .delete = mask.getLsbD 11 ∧
    u1.cur.modifier .ctrl = mask.getLsbD 0 ∧ u1.cur.modifier .backslash = mask.getLsbD 11 ∧
    u2.cur.modifier .shift = mask.getLsbD 0 ∧ u2.cur.modifier .question = mask.getLsbD 11 ∧
    u3.cur.modifier .esc = mask.getLsbD 0 ∧ u3.cur.modifier .win1 = mask.getLsbD 1 ∧
    u3.cur.modifier .win2 = mask.getLsbD 2 ∧ u3.cur.modifier .altL = mask.getLsbD 3 ∧
    u3.cur.layerSelector.code.val = (mask.getLsbD 4).toNat + 2 * (mask.getLsbD 7).toNat ∧
    u3.cur.modifier .space = mask.getLsbD 6 ∧ u3.cur.modifier .altR = mask.getLsbD 8 ∧
    u3.cur.modifier .winR = mask.getLsbD 9 ∧ u3.cur.modifier .compose = mask.getLsbD 10 ∧
    u3.cur.modifier .enter = mask.getLsbD 11 ∧ u3.cur.letters = s.cur.letters ∧
    exec (.assemble 3 (mask ^^^ 0x020#12)) s = .next u3

/-- ASSEMBLE(r) writes columns 1 to 10 of its mask into row r's letter slice, and leaves every field of CUR it does not write
for row r, and all the rest of the state, unchanged (R146, R140). -/
def Obligations.AssembleLeavesTheRest : Prop :=
  ∀ (r : RowIdx) (mask : Mask) (s : State), ∃ ks, exec (.assemble r mask) s = .next { s with cur := ks } ∧
    (∀ i : LetterIdx, ks.letters[i] = if i.val / 10 = r.val then mask.getLsbD (i.val % 10 + 1) else s.cur.letters[i]) ∧
    (r ≠ 3 → ks.layerSelector = s.cur.layerSelector) ∧
    (r ≠ 0 → ks.modifier .tab = s.cur.modifier .tab ∧ ks.modifier .delete = s.cur.modifier .delete) ∧
    (r ≠ 1 → ks.modifier .ctrl = s.cur.modifier .ctrl ∧ ks.modifier .backslash = s.cur.modifier .backslash) ∧
    (r ≠ 2 → ks.modifier .shift = s.cur.modifier .shift ∧ ks.modifier .question = s.cur.modifier .question) ∧
    (r ≠ 3 → ∀ m : Fin 15, 6 ≤ m.val → ks.modifiers[m] = s.cur.modifiers[m])

/-- ASSEMBLE overwrites and never accumulates: each bit its row's switches feed takes the value of its mask bit, 0 as well as
1, whatever it was before (R145); the unused switch 41 feeds none. -/
def Obligations.AssembleOverwrites : Prop :=
  ∀ (r : RowIdx) (mask : Mask) (s : State), ∃ u, exec (.assemble r mask) s = .next u ∧
    ∀ k : SwitchIdx, k.val / 12 = r.val → u.cur.fedBy k = if k = 41 then none else some (mask.getLsbD (k.val % 12))

/-- After ASSEMBLE of all four rows CUR is a function of the four masks: every switch of the map of 30_encoding.md R76 but
(3,5) feeds exactly its one bit, and CUR does not depend on its value before (R147; 10_state.md R25). -/
def Obligations.FourAssemblesDetermineCur : Prop :=
  ∀ (m : Vector Mask 4) (s : State), ∃ u,
    runAll [.assemble 0 m[0], .assemble 1 m[1], .assemble 2 m[2], .assemble 3 m[3]] s = some u ∧
    (∀ k : SwitchIdx, u.cur.fedBy k = if k = 41 then none else some ((m[switchRow k]).getLsbD (switchCol k).val)) ∧
    (∀ k k' : SwitchIdx, switchFunction k = switchFunction k' → k = k') ∧
    (∀ s' : State, ∃ u', runAll [.assemble 0 m[0], .assemble 1 m[1], .assemble 2 m[2], .assemble 3 m[3]] s' = some u' ∧
      u'.cur = u.cur)

/-- SCAN_ROW and ASSEMBLE of any rows and masks commute, so running all four SCAN_ROWs first and the four ASSEMBLEs after
gives the same state and calls (45_scan_cycle.md R214). -/
def Obligations.AssembleCommutesWithScanRow : Prop :=
  (∀ (r r' : RowIdx) (mask : Mask) (s : State),
    runAll [.assemble r mask, .scanRow r'] s = runAll [.scanRow r', .assemble r mask] s) ∧
  (∀ (m : Vector Mask 4) (s : State), ∃ u,
    runAll [.scanRow 0, .assemble 0 m[0], .scanRow 1, .assemble 1 m[1], .scanRow 2, .assemble 2 m[2], .scanRow 3,
      .assemble 3 m[3]] s = some u ∧
    runAll [.scanRow 0, .scanRow 1, .scanRow 2, .scanRow 3, .assemble 0 m[0], .assemble 1 m[1], .assemble 2 m[2],
      .assemble 3 m[3]] s = some u)

/-! ### Layer Resolver (43_layer_resolver.md R160 to R165) -/

/-- RESOLVE(l, i) gives back the low KC_BITS bits of LAYOUT[l][i] and its two flag bits, and changes nothing (R160). -/
def Obligations.ResolveLooksUpTheLayout : Prop :=
  ∀ (l : Layer) (i : LetterIdx) (s : State), exec (.resolve l i) s = .next { s with
    answers := s.answers ++ [.resolved ((s.config.params.layout[l.code])[i] % 2 ^ s.config.params.kcBits)
      (((s.config.params.layout[l.code])[i]).testBit s.config.params.ctrlFlagPos)
      (((s.config.params.layout[l.code])[i]).testBit s.config.params.shiftFlagPos)] }

/-- RESOLVE_SPECIAL gives back the key's base keycode at layer 0 and its other keycode at every other layer, and changes
nothing (R163). -/
def Obligations.ResolveSpecialDependsOnBaseOnly : Prop :=
  ∀ (key : SpecialKey) (l : Layer) (s : State), exec (.resolveSpecial key l) s = .next { s with
    answers := s.answers ++ [.keycode (match key with
      | .question => if l.code = 0 then s.config.params.questionKcBase else s.config.params.questionKcLayer
      | .backslash => if l.code = 0 then s.config.params.backslashKcBase else s.config.params.backslashKcLayer)] }

/-- A special key's keycode off the base layer is another than at the base layer, and the same at layers 1, 2 and 3 (R163;
00_scope.md R8). -/
def Obligations.SpecialKeysAreRemappedOffBase : Prop :=
  ∀ (key : SpecialKey) (l l' : Layer) (s : State), l ≠ .base → l' ≠ .base → ∃ k k' u b,
    exec (.resolveSpecial key l) s = .next u ∧ exec (.resolveSpecial key l') s = .next u ∧
    exec (.resolveSpecial key .base) s = .next b ∧
    u.answers = s.answers ++ [.keycode k] ∧ b.answers = s.answers ++ [.keycode k'] ∧ k ≠ k'

/-! ### State Differ & Emitter (44_differ_emitter.md R180 to R196) -/

/-- EMIT goes on in every state; it writes none of the block's state: it appends events to the trace, and HOSTSET takes
each in order (R180, R189; 20_memory.md R61; 60_exceptions.md R240). -/
def Obligations.EmitOnlyDrivesTheSink : Prop :=
  ∀ s : State, exec .emit s = .next { s with
    calls := s.calls ++ (emitted s).map Call.event
    hostSet := (emitted s).foldl (fun host e => match e with
      | .press k => hostInsert k host
      | .release k => hostErase k host
      | .hold => host) s.hostSet }

/-- An edge of a letter with an ordinary entry is one event: the keycode is pressed when the bit became set, released when it
became clear, with CUR's layer (R181, R183). -/
def Obligations.OrdinaryLetterEdgeIsOneEvent : Prop :=
  ∀ (s : State) (i : LetterIdx), OnlyLetterDiffers s i → curCtrl s i = false → curShift s i = false →
    emitted s = [if s.cur.letters[i] then .press (curKeycode s i) else .release (curKeycode s i)]

/-- An edge of a letter with a macro entry, a press or a release, is a full chorded tap in the order of R182. -/
def Obligations.MacroLetterEdgeIsATap : Prop :=
  ∀ (s : State) (i : LetterIdx), OnlyLetterDiffers s i → (curCtrl s i = true ∨ curShift s i = true) →
    emitted s = tapSequence s.config.params.chordCtrlKc s.config.params.chordShiftKc (curKeycode s i) (curCtrl s i) (curShift s i)

/-- A modifier's edge is one event with its bound keycode; the question-key and the backslash-key resolve with CUR's layer
(R184, R185; 43_layer_resolver.md R164). -/
def Obligations.ModifierEdgeIsOneEvent : Prop :=
  ∀ (s : State) (m : Modifier), OnlyModifierDiffers s m →
    emitted s = [if s.cur.modifier m then .press (boundKeycode s.config.params s.cur.layerSelector m)
      else .release (boundKeycode s.config.params s.cur.layerSelector m)]

/-- The edges of one cycle are emitted letters first in increasing index, then modifiers in the order of 10_state.md R24,
each edge's events complete before the next (R180, R184; 60_exceptions.md R235). The order across independent keys is the
spec's own reading of a source that promises none (R188), and the model takes it (DEDUCED, log 16). -/
def Obligations.EdgesAreEmittedInOrder : Prop :=
  ∀ (s : State) (n : Nat),
    emitted s = emitted { s with cur := lettersUpTo n s.cur s.prev } ++ emitted { s with prev := lettersUpTo n s.cur s.prev } ∧
    emitted s = emitted { s with cur := modifiersUpTo n s.cur s.prev } ++ emitted { s with prev := modifiersUpTo n s.cur s.prev }

/-- With no letter and no modifier changed EMIT changes nothing at all, whatever the two layer selectors are; so EMIT(S, S)
emits nothing (R186, R187). -/
def Obligations.LayerToggleEmitsNothing : Prop :=
  ∀ s : State, s.cur.letters = s.prev.letters → s.cur.modifiers = s.prev.modifiers → exec .emit s = .next s

/-- PREV's layer selector is never read by EMIT (R181). -/
def Obligations.EmitIgnoresThePreviousLayer : Prop :=
  ∀ (s : State) (l : Layer), ∃ u, exec .emit s = .next u ∧
    exec .emit { s with prev := { s.prev with layerSelector := l } } =
      .next { u with prev := { s.prev with layerSelector := l } }

/-- The number of sink calls of one EMIT is the sum over its edges: one for an ordinary letter or a modifier, 2 + 2*(cc + sc)
for a macro letter, and one Hold for each macro letter (R196). -/
def Obligations.SinkCallsPerEmit : Prop :=
  ∀ s : State,
    sinkCalls (emitted s) = ((List.finRange 30).map (letterCallCount s)).sum +
      allModifiers.countP (fun m => s.cur.modifier m != s.prev.modifier m) ∧
    (emitted s).count .hold = (List.finRange 30).countP (fun i =>
      s.cur.letters[i] != s.prev.letters[i] && (curCtrl s i || curShift s i))

/-- A macro letter held down and released under macro entries produces two full taps, one per edge, and they are identical
when the layer is the same at both edges (R190). -/
def Obligations.MacroTapsOnBothEdges : Prop :=
  ∀ (s : State) (i : LetterIdx) (released : KeyboardState), OnlyLetterDiffers s i → (curCtrl s i = true ∨ curShift s i = true) →
    OnlyLetterDiffers { s with cur := released, prev := s.cur } i →
    (curCtrl { s with cur := released } i = true ∨ curShift { s with cur := released } i = true) →
    ∃ t u v, exec .emit s = .next t ∧ exec .commit t = .next u ∧ exec .emit { u with cur := released } = .next v ∧
      v.trace = s.trace ++ letterTap s i ++ letterTap { s with cur := released } i ∧
      (released.layerSelector = s.cur.layerSelector → letterTap { s with cur := released } i = letterTap s i)

/-- After a macro letter's tap its keycode and the chord keycodes it used are not pressed at the host, and every other
keycode is as before (R182; 60_exceptions.md R240). -/
def Obligations.MacroTapLeavesNothingPressed : Prop :=
  ∀ (s : State) (i : LetterIdx), OnlyLetterDiffers s i → (curCtrl s i = true ∨ curShift s i = true) →
    ∃ u, exec .emit s = .next u ∧ ∀ x, x ∈ u.hostSet ↔ x ∈ s.hostSet ∧ x ≠ curKeycode s i ∧
      (curCtrl s i = true → x ≠ s.config.params.chordCtrlKc) ∧ (curShift s i = true → x ≠ s.config.params.chordShiftKc)

/-- An ordinary letter pressed under one layer and released under another with another keycode leaves the first keycode
pressed at the host (R191; 70_reset_and_hazards.md R257). -/
def Obligations.LayerChangeLeavesKeycodePressed : Prop :=
  ∀ (s : State) (i : LetterIdx) (released : KeyboardState), OnlyLetterDiffers s i → s.cur.letters[i] = true →
    curCtrl s i = false → curShift s i = false →
    OnlyLetterDiffers { s with cur := released, prev := s.cur } i →
    curCtrl { s with cur := released } i = false → curShift { s with cur := released } i = false →
    curKeycode { s with cur := released } i ≠ curKeycode s i →
    ∃ t u v, exec .emit s = .next t ∧ exec .commit t = .next u ∧ exec .emit { u with cur := released } = .next v ∧
      v.trace = s.trace ++ [.press (curKeycode s i), .release (curKeycode { s with cur := released } i)] ∧
      curKeycode s i ∈ v.hostSet

/-- A special key pressed under one layer and released under another emits the press of the first layer's keycode and the
release of the second's. When exactly one of the two layers is the base, in either direction, the pressed keycode stays
pressed at the host; when neither or both are, the keycode is the same and is not pressed after (R193; 00_scope.md R8). -/
def Obligations.SpecialKeyAcrossLayerChange : Prop :=
  ∀ (s : State) (m : Modifier) (released : KeyboardState), m = .question ∨ m = .backslash → OnlyModifierDiffers s m →
    s.cur.modifier m = true → OnlyModifierDiffers { s with cur := released, prev := s.cur } m →
    ∃ t u v, exec .emit s = .next t ∧ exec .commit t = .next u ∧ exec .emit { u with cur := released } = .next v ∧
      v.trace = s.trace ++ [.press (boundKeycode s.config.params s.cur.layerSelector m),
        .release (boundKeycode s.config.params released.layerSelector m)] ∧
      if s.cur.layerSelector = .base ↔ released.layerSelector = .base then
        boundKeycode s.config.params released.layerSelector m = boundKeycode s.config.params s.cur.layerSelector m ∧
        boundKeycode s.config.params s.cur.layerSelector m ∉ v.hostSet
      else boundKeycode s.config.params s.cur.layerSelector m ∈ v.hostSet

/-- Every keycode the block sends to the sink is a KC_BITS-bit value (30_encoding.md R77, R79). -/
def Obligations.EmittedKeycodesFit : Prop :=
  ∀ (s : State) (e : Event), e ∈ emitted s → ∀ k ∈ eventKeycodes e, k < 2 ^ s.config.params.kcBits

/-- HOSTSET is empty at process start, Press(k) adds k, Release(k) takes k away, Hold leaves it; it is the sink's, and the
block never reads it: a run from another HOSTSET differs in HOSTSET alone (60_exceptions.md R240). -/
def Obligations.HostSetIsTheSinksAlone : Prop :=
  State.reset.hostSet = [] ∧
  (∀ (trace : List Event) (k x : Keycode),
    (x ∈ hostAfter (trace ++ [.press k]) ↔ x = k ∨ x ∈ hostAfter trace) ∧
    (x ∈ hostAfter (trace ++ [.release k]) ↔ x ≠ k ∧ x ∈ hostAfter trace) ∧
    (x ∈ hostAfter (trace ++ [.hold]) ↔ x ∈ hostAfter trace)) ∧
  (∀ (s : State) (host : List Keycode) (u : State), step s = .next u →
    ∃ host', step { s with hostSet := host } = .next { u with hostSet := host' })

/-! ### COMMIT and CYCLE (45_scan_cycle.md R210 to R218) -/

/-- COMMIT copies all of CUR to PREV and changes nothing else; an EMIT before the next ASSEMBLE then emits nothing (R211). -/
def Obligations.CommitCopiesCurToPrev : Prop :=
  ∀ s : State, exec .commit s = .next { s with prev := s.cur } ∧
    exec .emit { s with prev := s.cur } = .next { s with prev := s.cur }

/-- CYCLE at SCAN0: every switch goes once through the gate with its row's reading; CUR then shows every used switch's
stable level; the events are those of EMIT against the PREV before, and HOSTSET takes them in order; PREV becomes CUR; all row
lines end INACTIVE; PHASE is SCAN0; nothing else changes but the environment's answers taken and the calls made (R210, R212). -/
def Obligations.CycleResult : Prop :=
  ∀ s : State, s.phase = .scan 0 → ∃ (now : RowIdx → Nat) (raw : SwitchIdx → Bool) (u : State), exec .cycle s = .next u ∧
    (∀ r : RowIdx, now r < 2 ^ s.config.params.timeWidth) ∧
    (∀ k : SwitchIdx, GateUpdate (raw k) (now (switchRow k)) s.debT[k] s.debRaw[k] s.debStable[k]
      u.debT[k] u.debRaw[k] u.debStable[k]) ∧
    (∀ k : SwitchIdx, u.cur.fedBy k = if k = 41 then none else some u.debStable[k]) ∧
    u.trace = s.trace ++ emitted { s with cur := u.cur } ∧
    u.hostSet = (emitted { s with cur := u.cur }).foldl (fun host e => hostAfterEvent e host) s.hostSet ∧
    u.prev = u.cur ∧ u.phase = .scan 0 ∧ u.LinesInactive ∧
    u.config = s.config ∧ u.requests = s.requests ∧ u.answers = s.answers

/-- A stimulus line drives one CYCLE: with nothing else listed, row r's reading is T_r and every switch's raw press is its
bit of the snapshot H, and the whole line is used (30_encoding.md R83; 45_scan_cycle.md R212). -/
def Obligations.StimulusLineDrivesOneCycle : Prop :=
  ∀ (s : State) (line : CycleLine), s.phase = .scan 0 → s.env.readings = [] → s.env.levels = [] →
    ∃ u, exec .cycle (s.loadLine line) = .next u ∧ u.env.readings = [] ∧ u.env.levels = [] ∧
      ∀ k : SwitchIdx, GateUpdate (line.pressed.getLsbD k.val)
        (lineReading line (switchRow k) % 2 ^ s.config.params.timeWidth) s.debT[k] s.debRaw[k] s.debStable[k]
        u.debT[k] u.debRaw[k] u.debStable[k]

/-- The external calls of a CYCLE before its events are, for r = 0 to 3, Now, Drive(r, ACTIVE), Sense(0), ..., Sense(11),
Drive(r, INACTIVE); the events follow (R210, R212, R214; 41_matrix_sampler.md R121). -/
def Obligations.CycleCallOrder : Prop :=
  ∀ s : State, s.phase = .scan 0 → ∃ (u : State) (events : List Event), exec .cycle s = .next u ∧
    u.calls = s.calls ++ ((List.finRange 4).flatMap fun r =>
      Call.now :: .drive r .active :: ((List.finRange 12).map Call.sense ++ [.drive r .inactive])) ++
      events.map Call.event

/-- The first cycle after reset emits nothing and leaves CUR and PREV released, whatever the configuration and whatever the
environment answers (R218; 40_debounce_gate.md R107). -/
def Obligations.FirstCycleEmitsNothing : Prop :=
  ∀ (config : Config) (env : Env), ∃ u, exec .cycle { State.reset with config := config, env := env } = .next u ∧
    u.trace = [] ∧ u.hostSet = [] ∧ u.cur = KeyboardState.released ∧ u.prev = KeyboardState.released ∧
    ∀ k : SwitchIdx, u.debStable[k] = false

/-- Debounce latency (70_reset_and_hazards.md R254): in the running loop a raw level that differs from the last one does not
reach CUR in that cycle, and one that has held for more than 15 ms by its row's reading does. -/
def Obligations.DebounceLatencyInTheLoop : Prop :=
  ∀ (s : State) (line : CycleLine) (k : SwitchIdx), s.LoopInv → s.phase = .scan 0 → s.env.readings = [] → s.env.levels = [] →
    k ≠ 41 → (∀ r, lineReading line r < 2 ^ s.config.params.timeWidth) →
    ∃ u, exec .cycle (s.loadLine line) = .next u ∧
      (line.pressed.getLsbD k.val ≠ s.debRaw[k] → u.cur.fedBy k = s.cur.fedBy k) ∧
      (line.pressed.getLsbD k.val = s.debRaw[k] → s.debT[k] + 15 < lineReading line (switchRow k) →
        u.cur.fedBy k = some (line.pressed.getLsbD k.val)) ∧
      (line.pressed.getLsbD k.val = s.debRaw[k] → s.debT[k] ≤ lineReading line (switchRow k) →
        lineReading line (switchRow k) ≤ s.debT[k] + 15 → u.cur.fedBy k = s.cur.fedBy k)

/-! ### Reset, invariants and the whole machine (10_state.md R20 to R39) -/

/-- Reset leaves every element of the block's state at the value of 10_state.md R38. -/
def Obligations.ResetValues : Prop :=
  (∀ k : SwitchIdx, State.reset.debT[k] = 0 ∧ State.reset.debRaw[k] = false ∧ State.reset.debStable[k] = false) ∧
  (∀ i : LetterIdx, State.reset.cur.letters[i] = false ∧ State.reset.prev.letters[i] = false) ∧
  (∀ m, State.reset.cur.modifier m = false ∧ State.reset.prev.modifier m = false) ∧
  State.reset.cur.layerSelector = .base ∧ State.reset.prev.layerSelector = .base ∧
  (∀ r : RowIdx, State.reset.rowLine[r] = .inactive) ∧ State.reset.phase = .scan 0

/-- The invariant of the machine and the invariant of the running loop hold at reset. -/
def Obligations.ResetHasInvariants : Prop := State.reset.Inv ∧ State.reset.LoopInv

/-- Every step keeps the invariant: outside SCAN_ROW all row lines are INACTIVE, every stored time is a TIME_WIDTH-bit value,
HOSTSET is canonical and is what the trace makes of the empty set, and ROW_LINE is what the Drive calls make of it
(10_state.md R29, R33; 60_exceptions.md R240). -/
def Obligations.EveryStepKeepsTheInvariant : Prop := ∀ s u : State, s.Inv → step s = .next u → u.Inv

/-- Every step of the running loop keeps CUR equal to the accepted levels and, at the start of a cycle, PREV equal to CUR
(10_state.md R26, R27, R31; 45_scan_cycle.md R211). -/
def Obligations.EveryLoopStepKeepsTheLoopInvariant : Prop := ∀ s : State, s.LoopInv → ∃ u, step s = .next u ∧ u.LoopInv

/-- No operation and no step writes a configuration value (10_state.md R37). -/
def Obligations.ConfigurationNeverChanges : Prop :=
  (∀ (i : Instr) (s u : State), exec i s = .next u → u.config = s.config) ∧
  (∀ s u : State, step s = .next u → u.config = s.config)

/-- Each element of the state is written only by its own operations: PREV by COMMIT, CUR by ASSEMBLE, the debounce record by
OBSERVE (alone or in SCAN_ROW), ROW_LINE by SCAN_ROW, the trace and HOSTSET by EMIT, and each of these inside CYCLE
(10_state.md R20, R26, R27, R32, R33). -/
def Obligations.OnlyTheirOperationsWriteTheState : Prop :=
  ∀ (i : Instr) (s u : State), exec i s = .next u → u.phase = s.phase ∧ u.requests = s.requests ∧
    (u.prev ≠ s.prev → i = .commit ∨ i = .cycle) ∧
    (u.cur ≠ s.cur → (∃ r m, i = .assemble r m) ∨ i = .cycle) ∧
    ((u.debT ≠ s.debT ∨ u.debRaw ≠ s.debRaw ∨ u.debStable ≠ s.debStable) →
      (∃ k b, i = .observe k b) ∨ (∃ r, i = .scanRow r) ∨ i = .cycle) ∧
    (u.rowLine ≠ s.rowLine → (∃ r, i = .scanRow r) ∨ i = .cycle) ∧
    (u.calls ≠ s.calls → (∃ r, i = .scanRow r) ∨ i = .emit ∨ i = .cycle) ∧
    ((u.hostSet ≠ s.hostSet ∨ u.trace ≠ s.trace) → i = .emit ∨ i = .cycle) ∧
    (u.env ≠ s.env → (∃ k b, i = .observe k b) ∨ (∃ r, i = .scanRow r) ∨ i = .cycle) ∧
    (u.answers ≠ s.answers → (∃ k b, i = .observe k b) ∨ (∃ r, i = .scanRow r) ∨ (∃ l j, i = .resolve l j) ∨
      ∃ key l, i = .resolveSpecial key l)

/-- The six phases have the codes 0 to 5, each its own, and the sequencer goes through them in the order of 10_state.md R34,
never otherwise. -/
def Obligations.PhaseAdvancesInItsOrder : Prop :=
  (∀ p : Phase, p.code.toNat < 6) ∧ (∀ p q : Phase, p.code = q.code → p = q) ∧
  (∀ s u : State, s.requests = [] → step s = .next u → u.phase = successor s.phase ∧
    u.phase.code.toNat = (s.phase.code.toNat + 1) % 6) ∧
  (∀ s u : State, s.requests ≠ [] → step s = .next u → u.phase = s.phase)
end

