-- ==== Sys2Proof/Laws/State.lean ====
section
/-! SUPPORT. One lemma per field per update of the state, true by unfolding, so that no later proof unfolds a record update. -/

namespace Sys2Proof.Machine

@[simp] theorem State.setDebT_config (v : Vector Nat 48) (s : State) : (s.setDebT v).config = s.config := rfl
@[simp] theorem State.setDebT_debT (v : Vector Nat 48) (s : State) : (s.setDebT v).debT = v := rfl
@[simp] theorem State.setDebT_debRaw (v : Vector Nat 48) (s : State) : (s.setDebT v).debRaw = s.debRaw := rfl
@[simp] theorem State.setDebT_debStable (v : Vector Nat 48) (s : State) : (s.setDebT v).debStable = s.debStable := rfl
@[simp] theorem State.setDebT_cur (v : Vector Nat 48) (s : State) : (s.setDebT v).cur = s.cur := rfl
@[simp] theorem State.setDebT_prev (v : Vector Nat 48) (s : State) : (s.setDebT v).prev = s.prev := rfl
@[simp] theorem State.setDebT_rowLine (v : Vector Nat 48) (s : State) : (s.setDebT v).rowLine = s.rowLine := rfl
@[simp] theorem State.setDebT_phase (v : Vector Nat 48) (s : State) : (s.setDebT v).phase = s.phase := rfl
@[simp] theorem State.setDebT_hostSet (v : Vector Nat 48) (s : State) : (s.setDebT v).hostSet = s.hostSet := rfl
@[simp] theorem State.setDebT_calls (v : Vector Nat 48) (s : State) : (s.setDebT v).calls = s.calls := rfl
@[simp] theorem State.setDebT_requests (v : Vector Nat 48) (s : State) : (s.setDebT v).requests = s.requests := rfl
@[simp] theorem State.setDebT_env (v : Vector Nat 48) (s : State) : (s.setDebT v).env = s.env := rfl
@[simp] theorem State.setDebT_answers (v : Vector Nat 48) (s : State) : (s.setDebT v).answers = s.answers := rfl

@[simp] theorem State.setDebRaw_config (v : Vector Bool 48) (s : State) : (s.setDebRaw v).config = s.config := rfl
@[simp] theorem State.setDebRaw_debT (v : Vector Bool 48) (s : State) : (s.setDebRaw v).debT = s.debT := rfl
@[simp] theorem State.setDebRaw_debRaw (v : Vector Bool 48) (s : State) : (s.setDebRaw v).debRaw = v := rfl
@[simp] theorem State.setDebRaw_debStable (v : Vector Bool 48) (s : State) : (s.setDebRaw v).debStable = s.debStable := rfl
@[simp] theorem State.setDebRaw_cur (v : Vector Bool 48) (s : State) : (s.setDebRaw v).cur = s.cur := rfl
@[simp] theorem State.setDebRaw_prev (v : Vector Bool 48) (s : State) : (s.setDebRaw v).prev = s.prev := rfl
@[simp] theorem State.setDebRaw_rowLine (v : Vector Bool 48) (s : State) : (s.setDebRaw v).rowLine = s.rowLine := rfl
@[simp] theorem State.setDebRaw_phase (v : Vector Bool 48) (s : State) : (s.setDebRaw v).phase = s.phase := rfl
@[simp] theorem State.setDebRaw_hostSet (v : Vector Bool 48) (s : State) : (s.setDebRaw v).hostSet = s.hostSet := rfl
@[simp] theorem State.setDebRaw_calls (v : Vector Bool 48) (s : State) : (s.setDebRaw v).calls = s.calls := rfl
@[simp] theorem State.setDebRaw_requests (v : Vector Bool 48) (s : State) : (s.setDebRaw v).requests = s.requests := rfl
@[simp] theorem State.setDebRaw_env (v : Vector Bool 48) (s : State) : (s.setDebRaw v).env = s.env := rfl
@[simp] theorem State.setDebRaw_answers (v : Vector Bool 48) (s : State) : (s.setDebRaw v).answers = s.answers := rfl

@[simp] theorem State.setDebStable_config (v : Vector Bool 48) (s : State) : (s.setDebStable v).config = s.config := rfl
@[simp] theorem State.setDebStable_debT (v : Vector Bool 48) (s : State) : (s.setDebStable v).debT = s.debT := rfl
@[simp] theorem State.setDebStable_debRaw (v : Vector Bool 48) (s : State) : (s.setDebStable v).debRaw = s.debRaw := rfl
@[simp] theorem State.setDebStable_debStable (v : Vector Bool 48) (s : State) : (s.setDebStable v).debStable = v := rfl
@[simp] theorem State.setDebStable_cur (v : Vector Bool 48) (s : State) : (s.setDebStable v).cur = s.cur := rfl
@[simp] theorem State.setDebStable_prev (v : Vector Bool 48) (s : State) : (s.setDebStable v).prev = s.prev := rfl
@[simp] theorem State.setDebStable_rowLine (v : Vector Bool 48) (s : State) : (s.setDebStable v).rowLine = s.rowLine := rfl
@[simp] theorem State.setDebStable_phase (v : Vector Bool 48) (s : State) : (s.setDebStable v).phase = s.phase := rfl
@[simp] theorem State.setDebStable_hostSet (v : Vector Bool 48) (s : State) : (s.setDebStable v).hostSet = s.hostSet := rfl
@[simp] theorem State.setDebStable_calls (v : Vector Bool 48) (s : State) : (s.setDebStable v).calls = s.calls := rfl
@[simp] theorem State.setDebStable_requests (v : Vector Bool 48) (s : State) : (s.setDebStable v).requests = s.requests := rfl
@[simp] theorem State.setDebStable_env (v : Vector Bool 48) (s : State) : (s.setDebStable v).env = s.env := rfl
@[simp] theorem State.setDebStable_answers (v : Vector Bool 48) (s : State) : (s.setDebStable v).answers = s.answers := rfl

@[simp] theorem State.setCur_config (k : KeyboardState) (s : State) : (s.setCur k).config = s.config := rfl
@[simp] theorem State.setCur_debT (k : KeyboardState) (s : State) : (s.setCur k).debT = s.debT := rfl
@[simp] theorem State.setCur_debRaw (k : KeyboardState) (s : State) : (s.setCur k).debRaw = s.debRaw := rfl
@[simp] theorem State.setCur_debStable (k : KeyboardState) (s : State) : (s.setCur k).debStable = s.debStable := rfl
@[simp] theorem State.setCur_cur (k : KeyboardState) (s : State) : (s.setCur k).cur = k := rfl
@[simp] theorem State.setCur_prev (k : KeyboardState) (s : State) : (s.setCur k).prev = s.prev := rfl
@[simp] theorem State.setCur_rowLine (k : KeyboardState) (s : State) : (s.setCur k).rowLine = s.rowLine := rfl
@[simp] theorem State.setCur_phase (k : KeyboardState) (s : State) : (s.setCur k).phase = s.phase := rfl
@[simp] theorem State.setCur_hostSet (k : KeyboardState) (s : State) : (s.setCur k).hostSet = s.hostSet := rfl
@[simp] theorem State.setCur_calls (k : KeyboardState) (s : State) : (s.setCur k).calls = s.calls := rfl
@[simp] theorem State.setCur_requests (k : KeyboardState) (s : State) : (s.setCur k).requests = s.requests := rfl
@[simp] theorem State.setCur_env (k : KeyboardState) (s : State) : (s.setCur k).env = s.env := rfl
@[simp] theorem State.setCur_answers (k : KeyboardState) (s : State) : (s.setCur k).answers = s.answers := rfl

@[simp] theorem State.setPrev_config (k : KeyboardState) (s : State) : (s.setPrev k).config = s.config := rfl
@[simp] theorem State.setPrev_debT (k : KeyboardState) (s : State) : (s.setPrev k).debT = s.debT := rfl
@[simp] theorem State.setPrev_debRaw (k : KeyboardState) (s : State) : (s.setPrev k).debRaw = s.debRaw := rfl
@[simp] theorem State.setPrev_debStable (k : KeyboardState) (s : State) : (s.setPrev k).debStable = s.debStable := rfl
@[simp] theorem State.setPrev_cur (k : KeyboardState) (s : State) : (s.setPrev k).cur = s.cur := rfl
@[simp] theorem State.setPrev_prev (k : KeyboardState) (s : State) : (s.setPrev k).prev = k := rfl
@[simp] theorem State.setPrev_rowLine (k : KeyboardState) (s : State) : (s.setPrev k).rowLine = s.rowLine := rfl
@[simp] theorem State.setPrev_phase (k : KeyboardState) (s : State) : (s.setPrev k).phase = s.phase := rfl
@[simp] theorem State.setPrev_hostSet (k : KeyboardState) (s : State) : (s.setPrev k).hostSet = s.hostSet := rfl
@[simp] theorem State.setPrev_calls (k : KeyboardState) (s : State) : (s.setPrev k).calls = s.calls := rfl
@[simp] theorem State.setPrev_requests (k : KeyboardState) (s : State) : (s.setPrev k).requests = s.requests := rfl
@[simp] theorem State.setPrev_env (k : KeyboardState) (s : State) : (s.setPrev k).env = s.env := rfl
@[simp] theorem State.setPrev_answers (k : KeyboardState) (s : State) : (s.setPrev k).answers = s.answers := rfl

@[simp] theorem State.setRowLine_config (v : Vector RowLevel 4) (s : State) : (s.setRowLine v).config = s.config := rfl
@[simp] theorem State.setRowLine_debT (v : Vector RowLevel 4) (s : State) : (s.setRowLine v).debT = s.debT := rfl
@[simp] theorem State.setRowLine_debRaw (v : Vector RowLevel 4) (s : State) : (s.setRowLine v).debRaw = s.debRaw := rfl
@[simp] theorem State.setRowLine_debStable (v : Vector RowLevel 4) (s : State) : (s.setRowLine v).debStable = s.debStable := rfl
@[simp] theorem State.setRowLine_cur (v : Vector RowLevel 4) (s : State) : (s.setRowLine v).cur = s.cur := rfl
@[simp] theorem State.setRowLine_prev (v : Vector RowLevel 4) (s : State) : (s.setRowLine v).prev = s.prev := rfl
@[simp] theorem State.setRowLine_rowLine (v : Vector RowLevel 4) (s : State) : (s.setRowLine v).rowLine = v := rfl
@[simp] theorem State.setRowLine_phase (v : Vector RowLevel 4) (s : State) : (s.setRowLine v).phase = s.phase := rfl
@[simp] theorem State.setRowLine_hostSet (v : Vector RowLevel 4) (s : State) : (s.setRowLine v).hostSet = s.hostSet := rfl
@[simp] theorem State.setRowLine_calls (v : Vector RowLevel 4) (s : State) : (s.setRowLine v).calls = s.calls := rfl
@[simp] theorem State.setRowLine_requests (v : Vector RowLevel 4) (s : State) : (s.setRowLine v).requests = s.requests := rfl
@[simp] theorem State.setRowLine_env (v : Vector RowLevel 4) (s : State) : (s.setRowLine v).env = s.env := rfl
@[simp] theorem State.setRowLine_answers (v : Vector RowLevel 4) (s : State) : (s.setRowLine v).answers = s.answers := rfl

@[simp] theorem State.setPhase_config (p : Phase) (s : State) : (s.setPhase p).config = s.config := rfl
@[simp] theorem State.setPhase_debT (p : Phase) (s : State) : (s.setPhase p).debT = s.debT := rfl
@[simp] theorem State.setPhase_debRaw (p : Phase) (s : State) : (s.setPhase p).debRaw = s.debRaw := rfl
@[simp] theorem State.setPhase_debStable (p : Phase) (s : State) : (s.setPhase p).debStable = s.debStable := rfl
@[simp] theorem State.setPhase_cur (p : Phase) (s : State) : (s.setPhase p).cur = s.cur := rfl
@[simp] theorem State.setPhase_prev (p : Phase) (s : State) : (s.setPhase p).prev = s.prev := rfl
@[simp] theorem State.setPhase_rowLine (p : Phase) (s : State) : (s.setPhase p).rowLine = s.rowLine := rfl
@[simp] theorem State.setPhase_phase (p : Phase) (s : State) : (s.setPhase p).phase = p := rfl
@[simp] theorem State.setPhase_hostSet (p : Phase) (s : State) : (s.setPhase p).hostSet = s.hostSet := rfl
@[simp] theorem State.setPhase_calls (p : Phase) (s : State) : (s.setPhase p).calls = s.calls := rfl
@[simp] theorem State.setPhase_requests (p : Phase) (s : State) : (s.setPhase p).requests = s.requests := rfl
@[simp] theorem State.setPhase_env (p : Phase) (s : State) : (s.setPhase p).env = s.env := rfl
@[simp] theorem State.setPhase_answers (p : Phase) (s : State) : (s.setPhase p).answers = s.answers := rfl

@[simp] theorem State.setHostSet_config (h : List Keycode) (s : State) : (s.setHostSet h).config = s.config := rfl
@[simp] theorem State.setHostSet_debT (h : List Keycode) (s : State) : (s.setHostSet h).debT = s.debT := rfl
@[simp] theorem State.setHostSet_debRaw (h : List Keycode) (s : State) : (s.setHostSet h).debRaw = s.debRaw := rfl
@[simp] theorem State.setHostSet_debStable (h : List Keycode) (s : State) : (s.setHostSet h).debStable = s.debStable := rfl
@[simp] theorem State.setHostSet_cur (h : List Keycode) (s : State) : (s.setHostSet h).cur = s.cur := rfl
@[simp] theorem State.setHostSet_prev (h : List Keycode) (s : State) : (s.setHostSet h).prev = s.prev := rfl
@[simp] theorem State.setHostSet_rowLine (h : List Keycode) (s : State) : (s.setHostSet h).rowLine = s.rowLine := rfl
@[simp] theorem State.setHostSet_phase (h : List Keycode) (s : State) : (s.setHostSet h).phase = s.phase := rfl
@[simp] theorem State.setHostSet_hostSet (h : List Keycode) (s : State) : (s.setHostSet h).hostSet = h := rfl
@[simp] theorem State.setHostSet_calls (h : List Keycode) (s : State) : (s.setHostSet h).calls = s.calls := rfl
@[simp] theorem State.setHostSet_requests (h : List Keycode) (s : State) : (s.setHostSet h).requests = s.requests := rfl
@[simp] theorem State.setHostSet_env (h : List Keycode) (s : State) : (s.setHostSet h).env = s.env := rfl
@[simp] theorem State.setHostSet_answers (h : List Keycode) (s : State) : (s.setHostSet h).answers = s.answers := rfl

@[simp] theorem State.setRequests_config (r : List ReqWord) (s : State) : (s.setRequests r).config = s.config := rfl
@[simp] theorem State.setRequests_debT (r : List ReqWord) (s : State) : (s.setRequests r).debT = s.debT := rfl
@[simp] theorem State.setRequests_debRaw (r : List ReqWord) (s : State) : (s.setRequests r).debRaw = s.debRaw := rfl
@[simp] theorem State.setRequests_debStable (r : List ReqWord) (s : State) : (s.setRequests r).debStable = s.debStable := rfl
@[simp] theorem State.setRequests_cur (r : List ReqWord) (s : State) : (s.setRequests r).cur = s.cur := rfl
@[simp] theorem State.setRequests_prev (r : List ReqWord) (s : State) : (s.setRequests r).prev = s.prev := rfl
@[simp] theorem State.setRequests_rowLine (r : List ReqWord) (s : State) : (s.setRequests r).rowLine = s.rowLine := rfl
@[simp] theorem State.setRequests_phase (r : List ReqWord) (s : State) : (s.setRequests r).phase = s.phase := rfl
@[simp] theorem State.setRequests_hostSet (r : List ReqWord) (s : State) : (s.setRequests r).hostSet = s.hostSet := rfl
@[simp] theorem State.setRequests_calls (r : List ReqWord) (s : State) : (s.setRequests r).calls = s.calls := rfl
@[simp] theorem State.setRequests_requests (r : List ReqWord) (s : State) : (s.setRequests r).requests = r := rfl
@[simp] theorem State.setRequests_env (r : List ReqWord) (s : State) : (s.setRequests r).env = s.env := rfl
@[simp] theorem State.setRequests_answers (r : List ReqWord) (s : State) : (s.setRequests r).answers = s.answers := rfl

@[simp] theorem State.setEnv_config (e : Env) (s : State) : (s.setEnv e).config = s.config := rfl
@[simp] theorem State.setEnv_debT (e : Env) (s : State) : (s.setEnv e).debT = s.debT := rfl
@[simp] theorem State.setEnv_debRaw (e : Env) (s : State) : (s.setEnv e).debRaw = s.debRaw := rfl
@[simp] theorem State.setEnv_debStable (e : Env) (s : State) : (s.setEnv e).debStable = s.debStable := rfl
@[simp] theorem State.setEnv_cur (e : Env) (s : State) : (s.setEnv e).cur = s.cur := rfl
@[simp] theorem State.setEnv_prev (e : Env) (s : State) : (s.setEnv e).prev = s.prev := rfl
@[simp] theorem State.setEnv_rowLine (e : Env) (s : State) : (s.setEnv e).rowLine = s.rowLine := rfl
@[simp] theorem State.setEnv_phase (e : Env) (s : State) : (s.setEnv e).phase = s.phase := rfl
@[simp] theorem State.setEnv_hostSet (e : Env) (s : State) : (s.setEnv e).hostSet = s.hostSet := rfl
@[simp] theorem State.setEnv_calls (e : Env) (s : State) : (s.setEnv e).calls = s.calls := rfl
@[simp] theorem State.setEnv_requests (e : Env) (s : State) : (s.setEnv e).requests = s.requests := rfl
@[simp] theorem State.setEnv_env (e : Env) (s : State) : (s.setEnv e).env = e := rfl
@[simp] theorem State.setEnv_answers (e : Env) (s : State) : (s.setEnv e).answers = s.answers := rfl

@[simp] theorem State.addCall_config (c : Call) (s : State) : (s.addCall c).config = s.config := rfl
@[simp] theorem State.addCall_debT (c : Call) (s : State) : (s.addCall c).debT = s.debT := rfl
@[simp] theorem State.addCall_debRaw (c : Call) (s : State) : (s.addCall c).debRaw = s.debRaw := rfl
@[simp] theorem State.addCall_debStable (c : Call) (s : State) : (s.addCall c).debStable = s.debStable := rfl
@[simp] theorem State.addCall_cur (c : Call) (s : State) : (s.addCall c).cur = s.cur := rfl
@[simp] theorem State.addCall_prev (c : Call) (s : State) : (s.addCall c).prev = s.prev := rfl
@[simp] theorem State.addCall_rowLine (c : Call) (s : State) : (s.addCall c).rowLine = s.rowLine := rfl
@[simp] theorem State.addCall_phase (c : Call) (s : State) : (s.addCall c).phase = s.phase := rfl
@[simp] theorem State.addCall_hostSet (c : Call) (s : State) : (s.addCall c).hostSet = s.hostSet := rfl
@[simp] theorem State.addCall_calls (c : Call) (s : State) : (s.addCall c).calls = s.calls ++ [c] := rfl
@[simp] theorem State.addCall_requests (c : Call) (s : State) : (s.addCall c).requests = s.requests := rfl
@[simp] theorem State.addCall_env (c : Call) (s : State) : (s.addCall c).env = s.env := rfl
@[simp] theorem State.addCall_answers (c : Call) (s : State) : (s.addCall c).answers = s.answers := rfl

@[simp] theorem State.reply_config (a : Answer) (s : State) : (s.reply a).config = s.config := rfl
@[simp] theorem State.reply_debT (a : Answer) (s : State) : (s.reply a).debT = s.debT := rfl
@[simp] theorem State.reply_debRaw (a : Answer) (s : State) : (s.reply a).debRaw = s.debRaw := rfl
@[simp] theorem State.reply_debStable (a : Answer) (s : State) : (s.reply a).debStable = s.debStable := rfl
@[simp] theorem State.reply_cur (a : Answer) (s : State) : (s.reply a).cur = s.cur := rfl
@[simp] theorem State.reply_prev (a : Answer) (s : State) : (s.reply a).prev = s.prev := rfl
@[simp] theorem State.reply_rowLine (a : Answer) (s : State) : (s.reply a).rowLine = s.rowLine := rfl
@[simp] theorem State.reply_phase (a : Answer) (s : State) : (s.reply a).phase = s.phase := rfl
@[simp] theorem State.reply_hostSet (a : Answer) (s : State) : (s.reply a).hostSet = s.hostSet := rfl
@[simp] theorem State.reply_calls (a : Answer) (s : State) : (s.reply a).calls = s.calls := rfl
@[simp] theorem State.reply_requests (a : Answer) (s : State) : (s.reply a).requests = s.requests := rfl
@[simp] theorem State.reply_env (a : Answer) (s : State) : (s.reply a).env = s.env := rfl
@[simp] theorem State.reply_answers (a : Answer) (s : State) : (s.reply a).answers = s.answers ++ [a] := rfl

end Sys2Proof.Machine
end

