-- ==== Sys2Proof/Laws/Ops.lean ====
section
/-! SUPPORT. What the shared operations of Machine/Ops.lean, Operands.lean and Flags.lean do, said once: the draws, the
debounce record of one switch, the external calls, HOSTSET and its canonical form, and the index maps. -/

namespace Sys2Proof.Machine

/-! ### The debounce record of one switch -/

@[simp] theorem State.setCell_config (k : SwitchIdx) (c : DebCell) (s : State) : (s.setCell k c).config = s.config := rfl
@[simp] theorem State.setCell_cur (k : SwitchIdx) (c : DebCell) (s : State) : (s.setCell k c).cur = s.cur := rfl
@[simp] theorem State.setCell_prev (k : SwitchIdx) (c : DebCell) (s : State) : (s.setCell k c).prev = s.prev := rfl
@[simp] theorem State.setCell_rowLine (k : SwitchIdx) (c : DebCell) (s : State) : (s.setCell k c).rowLine = s.rowLine := rfl
@[simp] theorem State.setCell_phase (k : SwitchIdx) (c : DebCell) (s : State) : (s.setCell k c).phase = s.phase := rfl
@[simp] theorem State.setCell_hostSet (k : SwitchIdx) (c : DebCell) (s : State) : (s.setCell k c).hostSet = s.hostSet := rfl
@[simp] theorem State.setCell_calls (k : SwitchIdx) (c : DebCell) (s : State) : (s.setCell k c).calls = s.calls := rfl
@[simp] theorem State.setCell_requests (k : SwitchIdx) (c : DebCell) (s : State) : (s.setCell k c).requests = s.requests := rfl
@[simp] theorem State.setCell_env (k : SwitchIdx) (c : DebCell) (s : State) : (s.setCell k c).env = s.env := rfl
@[simp] theorem State.setCell_answers (k : SwitchIdx) (c : DebCell) (s : State) : (s.setCell k c).answers = s.answers := rfl

@[simp] theorem State.setCell_debT (k : SwitchIdx) (c : DebCell) (s : State) :
    (s.setCell k c).debT = s.debT.set k.val c.time k.isLt := rfl
@[simp] theorem State.setCell_debRaw (k : SwitchIdx) (c : DebCell) (s : State) :
    (s.setCell k c).debRaw = s.debRaw.set k.val c.raw k.isLt := rfl
@[simp] theorem State.setCell_debStable (k : SwitchIdx) (c : DebCell) (s : State) :
    (s.setCell k c).debStable = s.debStable.set k.val c.stable k.isLt := rfl

@[simp] theorem State.cell_setCur (x : KeyboardState) (k : SwitchIdx) (s : State) : (s.setCur x).cell k = s.cell k := rfl
@[simp] theorem State.cell_setPrev (x : KeyboardState) (k : SwitchIdx) (s : State) : (s.setPrev x).cell k = s.cell k := rfl
@[simp] theorem State.cell_setRowLine (x : Vector RowLevel 4) (k : SwitchIdx) (s : State) : (s.setRowLine x).cell k = s.cell k := rfl
@[simp] theorem State.cell_setPhase (p : Phase) (k : SwitchIdx) (s : State) : (s.setPhase p).cell k = s.cell k := rfl
@[simp] theorem State.cell_setHostSet (h : List Keycode) (k : SwitchIdx) (s : State) : (s.setHostSet h).cell k = s.cell k := rfl
@[simp] theorem State.cell_setRequests (r : List ReqWord) (k : SwitchIdx) (s : State) : (s.setRequests r).cell k = s.cell k := rfl
@[simp] theorem State.cell_setEnv (e : Env) (k : SwitchIdx) (s : State) : (s.setEnv e).cell k = s.cell k := rfl
@[simp] theorem State.cell_addCall (c : Call) (k : SwitchIdx) (s : State) : (s.addCall c).cell k = s.cell k := rfl
@[simp] theorem State.cell_reply (a : Answer) (k : SwitchIdx) (s : State) : (s.reply a).cell k = s.cell k := rfl

/-- A record reads back as it was written. -/
@[simp] theorem State.cell_setCell_same (k : SwitchIdx) (c : DebCell) (s : State) : (s.setCell k c).cell k = c := by
  simp [State.cell]

/-- Writing one switch's record leaves every other record alone (40_debounce_gate.md R106). -/
theorem State.cell_setCell_other {k j : SwitchIdx} (h : j ≠ k) (c : DebCell) (s : State) :
    (s.setCell k c).cell j = s.cell j := by
  have hv : k.val ≠ j.val := fun e => h (Fin.ext e.symm)
  simp [State.cell, hv]

/-- Writing a record back changes nothing. -/
theorem State.setCell_cell (k : SwitchIdx) (s : State) : s.setCell k (s.cell k) = s := by
  simp [State.setCell, State.cell, State.setDebT, State.setDebRaw, State.setDebStable]

/-- The records depend on the three arrays alone. -/
theorem State.cell_congr {s t : State} (h1 : s.debT = t.debT) (h2 : s.debRaw = t.debRaw) (h3 : s.debStable = t.debStable)
    (k : SwitchIdx) : s.cell k = t.cell k := by
  simp [State.cell, h1, h2, h3]

/-- Two states with the same records have the same debounce arrays. -/
theorem State.arrays_of_cells {s t : State} (h : ∀ k, s.cell k = t.cell k) :
    s.debT = t.debT ∧ s.debRaw = t.debRaw ∧ s.debStable = t.debStable := by
  refine ⟨Vector.ext fun i hi => ?_, Vector.ext fun i hi => ?_, Vector.ext fun i hi => ?_⟩
  · exact congrArg DebCell.time (h ⟨i, hi⟩)
  · exact congrArg DebCell.raw (h ⟨i, hi⟩)
  · exact congrArg DebCell.stable (h ⟨i, hi⟩)

/-! ### Draws -/

/-- A listed reading is answered modulo 2^TIME_WIDTH and taken from the list. -/
theorem State.drawReading_listed {s : State} {t : Nat} {rest : List Nat} (h : s.env.readings = t :: rest) :
    s.drawReading = (t % 2 ^ s.config.params.timeWidth, s.setEnv { s.env with readings := rest }) := by
  simp [State.drawReading, h]

/-- A reading changes the environment alone and is a TIME_WIDTH-bit value. -/
theorem State.drawReading_spec (s : State) :
    ∃ n e, s.drawReading = (n, s.setEnv e) ∧ n < 2 ^ s.config.params.timeWidth ∧ e.levels = s.env.levels ∧
      e.accepts = s.env.accepts := by
  unfold State.drawReading
  split
  · exact ⟨_, _, rfl, Nat.mod_lt _ (by positivity), rfl, rfl⟩
  · exact ⟨_, _, rfl, Nat.mod_lt _ (by positivity), rfl, rfl⟩

/-- A listed level is answered and taken from the list. -/
theorem State.drawLevel_listed {s : State} {l : LineLevel} {rest : List LineLevel} (h : s.env.levels = l :: rest) :
    s.drawLevel = (l, s.setEnv { s.env with levels := rest }) := by
  simp [State.drawLevel, h]

/-- A level changes the environment alone. -/
theorem State.drawLevel_spec (s : State) :
    ∃ l e, s.drawLevel = (l, s.setEnv e) ∧ e.readings = s.env.readings ∧ e.accepts = s.env.accepts := by
  unfold State.drawLevel
  split
  · exact ⟨_, _, rfl, rfl, rfl⟩
  · exact ⟨_, _, rfl, rfl, rfl⟩

/-- A listed acceptance draw is answered and taken from the list. -/
theorem State.drawAccept_listed {s : State} {b : Bool} {rest : List Bool} (h : s.env.accepts = b :: rest) :
    s.drawAccept = (b, s.setEnv { s.env with accepts := rest }) := by
  simp [State.drawAccept, h]

/-- An acceptance draw changes the environment alone. -/
theorem State.drawAccept_spec (s : State) :
    ∃ b e, s.drawAccept = (b, s.setEnv e) ∧ e.readings = s.env.readings ∧ e.levels = s.env.levels := by
  unfold State.drawAccept
  split
  · exact ⟨_, _, rfl, rfl, rfl⟩
  · exact ⟨_, _, rfl, rfl, rfl⟩

/-! ### Time and acceptance (40_debounce_gate.md R100 to R103) -/

/-- With both values in range and `b <= a` the modular difference is the plain one. -/
theorem subTime_of_le {w a b : Nat} (ha : a < 2 ^ w) (hba : b ≤ a) : subTime w a b = a - b := by
  have hb : b < 2 ^ w := by omega
  rw [subTime, Nat.mod_eq_of_lt ha, Nat.mod_eq_of_lt hb]
  rw [show a + (2 ^ w - b) = (a - b) + 2 ^ w by omega, Nat.add_mod_right, Nat.mod_eq_of_lt (by omega)]

/-- When the clock has not gone below the stored time, the acceptance is exact and strict (R101). -/
theorem acceptLevel_of_le {w : Nat} {c : DebCell} {now : Nat} (hn : now < 2 ^ w) (h : c.time ≤ now) :
    acceptLevel w c now = some (decide (15 < now - c.time)) := by
  simp [acceptLevel, Nat.not_lt.mpr h, subTime_of_le hn h, windowMs]

/-- When the clock is below the stored time, the acceptance is a draw (R102). -/
theorem acceptLevel_of_lt {w : Nat} {c : DebCell} {now : Nat} (h : now < c.time) : acceptLevel w c now = none := by
  simp [acceptLevel, h]

/-- A call that sees the raw level change stores `now` (R100). -/
theorem noteRaw_changed {c : DebCell} {raw : Bool} (now : Nat) (h : raw ≠ c.raw) :
    noteRaw c raw now = ⟨now, raw, c.stable⟩ := by
  simp [noteRaw, h]

/-- A call that sees the raw level unchanged stores nothing (R100). -/
theorem noteRaw_same {c : DebCell} {raw : Bool} (now : Nat) (h : raw = c.raw) : noteRaw c raw now = c := by
  simp [noteRaw, h]

@[simp] theorem noteRaw_raw (c : DebCell) (raw : Bool) (now : Nat) : (noteRaw c raw now).raw = raw := by
  unfold noteRaw; split <;> simp_all
@[simp] theorem noteRaw_stable (c : DebCell) (raw : Bool) (now : Nat) : (noteRaw c raw now).stable = c.stable := by
  unfold noteRaw; split <;> rfl
@[simp] theorem takeStable_time (c : DebCell) (raw a : Bool) : (takeStable c raw a).time = c.time := by
  unfold takeStable; split <;> rfl
@[simp] theorem takeStable_raw (c : DebCell) (raw a : Bool) : (takeStable c raw a).raw = c.raw := by
  unfold takeStable; split <;> rfl
@[simp] theorem takeStable_stable (c : DebCell) (raw a : Bool) :
    (takeStable c raw a).stable = if a then raw else c.stable := by
  unfold takeStable; split <;> rfl

/-- The stored time after a call is the old one or `now`. -/
theorem noteRaw_time (c : DebCell) (raw : Bool) (now : Nat) :
    (noteRaw c raw now).time = c.time ∨ (noteRaw c raw now).time = now := by
  unfold noteRaw; split <;> simp

/-- The call that sees a change never accepts it (R103). -/
theorem acceptLevel_noteRaw_changed (w : Nat) {c : DebCell} {raw : Bool} {now : Nat} (hn : now < 2 ^ w) (h : raw ≠ c.raw) :
    acceptLevel w (noteRaw c raw now) now = some false := by
  rw [acceptLevel_of_le hn (by simp [noteRaw_changed now h])]
  simp [noteRaw_changed now h]

/-! ### External calls -/

/-- What driving a row line leaves (10_state.md R33). -/
theorem State.drive_eq (r : RowIdx) (l : RowLevel) (s : State) :
    s.drive r l = (s.setRowLine (s.rowLine.set r.val l r.isLt)).addCall (.drive r l) := rfl

/-- Reading a column records the call and changes the environment alone besides. -/
theorem State.sense_spec (c : ColIdx) (s : State) :
    ∃ l e, s.sense c = (l, (s.addCall (.sense c)).setEnv e) ∧ e.readings = s.env.readings ∧ e.accepts = s.env.accepts :=
  (s.addCall (.sense c)).drawLevel_spec

/-- Reading the clock records the call and changes the environment alone besides. -/
theorem State.callNow_spec (s : State) :
    ∃ n e, s.callNow = (n, (s.addCall .now).setEnv e) ∧ n < 2 ^ s.config.params.timeWidth ∧ e.levels = s.env.levels ∧
      e.accepts = s.env.accepts :=
  (s.addCall .now).drawReading_spec

/-! ### HOSTSET (60_exceptions.md R240) -/

/-- A pressed keycode is in the set; the others are as before. -/
@[simp] theorem mem_hostInsert (k x : Keycode) (host : List Keycode) : x ∈ hostInsert k host ↔ x = k ∨ x ∈ host := by
  induction host with
  | nil => simp [hostInsert]
  | cons y ys ih =>
    unfold hostInsert
    split
    · simp
    · split
      · simp_all
      · simp only [List.mem_cons, ih]
        tauto

/-- A released keycode is not in the set; the others are as before. -/
@[simp] theorem mem_hostErase (k x : Keycode) (host : List Keycode) : x ∈ hostErase k host ↔ x ≠ k ∧ x ∈ host := by
  simp [hostErase, and_comm]

/-- Pressing keeps the canonical form. -/
theorem hostInsert_wf (k : Keycode) {host : List Keycode} (h : hostSetWf host) : hostSetWf (hostInsert k host) := by
  induction host with
  | nil => simp [hostInsert]
  | cons y ys ih =>
    obtain ⟨hy, hys⟩ := List.pairwise_cons.mp h
    unfold hostInsert
    split
    · next hk => exact List.pairwise_cons.mpr ⟨by
        intro z hz
        rcases List.mem_cons.mp hz with rfl | hz
        · exact hk
        · exact hk.trans (hy z hz), h⟩
    · split
      · exact h
      · refine List.pairwise_cons.mpr ⟨fun z hz => ?_, ih hys⟩
        rcases (mem_hostInsert k z ys).mp hz with rfl | hz
        · exact lt_of_le_of_ne (not_lt.mp ‹_›) (Ne.symm ‹_›)
        · exact hy z hz

/-- Releasing keeps the canonical form. -/
theorem hostErase_wf (k : Keycode) {host : List Keycode} (h : hostSetWf host) : hostSetWf (hostErase k host) :=
  h.filter _

/-- Every event keeps the canonical form. -/
theorem hostAfterEvent_wf (e : Event) {host : List Keycode} (h : hostSetWf host) : hostSetWf (hostAfterEvent e host) := by
  cases e with
  | press k => exact hostInsert_wf k h
  | release k => exact hostErase_wf k h
  | hold => exact h

/-- Equal sets in canonical form are equal lists. -/
theorem hostSet_ext {a b : List Keycode} (ha : hostSetWf a) (hb : hostSetWf b) (h : ∀ x, x ∈ a ↔ x ∈ b) : a = b :=
  (List.perm_of_nodup_nodup_toFinset_eq ha.nodup hb.nodup (by ext x; simp [h])).eq_of_pairwise
    (fun x y _ _ h1 h2 => absurd h1 (lt_asymm h2)) ha hb

/-- Emitting events records them and acts on HOSTSET, and nothing else. -/
theorem State.emitEvents_eq (events : List Event) (s : State) :
    s.emitEvents events =
      { s with calls := s.calls ++ events.map .event, hostSet := events.foldl (fun h e => hostAfterEvent e h) s.hostSet } := by
  induction events generalizing s with
  | nil => simp [State.emitEvents]
  | cons e rest ih =>
    have h := ih (s.emitEvent e)
    simp only [State.emitEvents, List.foldl_cons] at h ⊢
    rw [h]
    simp [State.emitEvent, State.setHostSet, State.addCall]

/-- Events in a row keep the canonical form. -/
theorem hostFold_wf (events : List Event) {host : List Keycode} (h : hostSetWf host) :
    hostSetWf (events.foldl (fun h e => hostAfterEvent e h) host) := by
  induction events generalizing host with
  | nil => exact h
  | cons e rest ih => exact ih (hostAfterEvent_wf e h)

/-- The trace after events are the trace before and the events. -/
theorem filterMap_toEvent_events (calls : List Call) (events : List Event) :
    (calls ++ events.map Call.event).filterMap Call.toEvent = calls.filterMap Call.toEvent ++ events := by
  simp [List.filterMap_append, List.filterMap_map, Function.comp_def, Call.toEvent]

/-! ### Index maps (30_encoding.md R70 to R76) -/

@[simp] theorem switchRow_switchOf (r : RowIdx) (c : ColIdx) : switchRow (switchOf r c) = r := by
  apply Fin.ext; have := c.isLt; simp only [switchRow, switchOf]; omega
@[simp] theorem switchCol_switchOf (r : RowIdx) (c : ColIdx) : switchCol (switchOf r c) = c := by
  apply Fin.ext; have := c.isLt; simp only [switchCol, switchOf]; omega
@[simp] theorem switchOf_row_col (k : SwitchIdx) : switchOf (switchRow k) (switchCol k) = k := by
  apply Fin.ext; simp only [switchRow, switchCol, switchOf]; omega

/-- Two switches are one switch when their rows and columns agree. -/
theorem switchOf_inj {r r' : RowIdx} {c c' : ColIdx} (h : switchOf r c = switchOf r' c') : r = r' ∧ c = c' :=
  ⟨by simpa using congrArg switchRow h, by simpa using congrArg switchCol h⟩

@[simp] theorem modifierOf_modifierIndex (m : Modifier) : modifierOf (modifierIndex m) = m := by cases m <;> rfl
@[simp] theorem modifierIndex_modifierOf : ∀ m : Fin 15, modifierIndex (modifierOf m) = m := by decide

/-- The list of modifiers is the 15 indexes in order (10_state.md R24). -/
theorem allModifiers_eq : allModifiers = (List.finRange 15).map modifierOf := by decide

/-- Reading a mask bit after writing one. -/
@[simp] theorem maskBit_setMaskBit (m : Mask) (c j : ColIdx) (b : Bool) :
    maskBit (setMaskBit m c b) j = if j = c then b else maskBit m j := by
  have hj := j.isLt
  have hc := c.isLt
  by_cases h : j = c
  · subst h; cases b <;> simp [maskBit, setMaskBit, hj]
  · have hv : j.val ≠ c.val := fun e => h (Fin.ext e)
    cases b <;> simp [maskBit, setMaskBit, hj, h, hv]

/-- Two masks with the same twelve bits are equal. -/
theorem mask_ext {a b : Mask} (h : ∀ c, maskBit a c = maskBit b c) : a = b :=
  BitVec.eq_of_getLsbD_eq fun i hi => h ⟨i, hi⟩

end Sys2Proof.Machine
end

