-- ==== Sys2Proof/Laws/Assembler.lean ====
section
/-! SUPPORT. What ASSEMBLE's operation writes, field by field and through the switch map (42_state_assembler.md R140 to R147,
30_encoding.md R73 to R76). -/

namespace Sys2Proof.Machine

/-- A letter takes its mask bit in its own row and stays in every other (R140, R146). -/
theorem assembleInto_letter (r : RowIdx) (mask : Mask) (ks : KeyboardState) (i : LetterIdx) :
    (assembleInto r mask ks).letters[i] = if letterRow i = r then maskBit mask (letterCol i) else ks.letters[i] := by
  simp [assembleInto]

/-- A modifier takes its mask bit in its own row and stays in every other (R140). -/
theorem assembleInto_modifier (r : RowIdx) (mask : Mask) (ks : KeyboardState) (m : Modifier) :
    (assembleInto r mask ks).modifier m = if modifierRow m = r then maskBit mask (modifierCol m) else ks.modifier m := by
  simp [assembleInto, KeyboardState.modifier]

/-- The layer selector is written in row 3 only (R144). -/
theorem assembleInto_layer (r : RowIdx) (mask : Mask) (ks : KeyboardState) :
    (assembleInto r mask ks).layerSelector =
      if r = 3 then layerOfBits (maskBit mask 7) (maskBit mask 4) else ks.layerSelector := rfl

@[simp] theorem layerBit0_layerOfBits (b1 b0 : Bool) : layerBit0 (layerOfBits b1 b0) = b0 := by
  cases b1 <;> cases b0 <;> rfl
@[simp] theorem layerBit1_layerOfBits (b1 b0 : Bool) : layerBit1 (layerOfBits b1 b0) = b1 := by
  cases b1 <;> cases b0 <;> rfl

/-- The selector is its two bits. -/
theorem layer_ext {a b : Layer} (h0 : layerBit0 a = layerBit0 b) (h1 : layerBit1 a = layerBit1 b) : a = b := by
  cases a <;> cases b <;> simp_all [layerBit0, layerBit1]

/-- Where the map of R76 places a function, as R73, R74 and R75 place it. -/
def placeAgrees (k : SwitchIdx) : SwitchFunction → Bool
  | .letter i => decide (letterRow i = switchRow k ∧ letterCol i = switchCol k)
  | .modifier m => decide (modifierRow m = switchRow k ∧ modifierCol m = switchCol k)
  | .layerKeyL => decide (switchRow k = 3 ∧ switchCol k = 4)
  | .layerKeyR => decide (switchRow k = 3 ∧ switchCol k = 7)
  | .unused => decide (k = 41)

/-- The map of R76 agrees with R73, R74 and R75 at every switch. -/
theorem switchFunction_place : ∀ k : SwitchIdx, placeAgrees k (switchFunction k) = true := by decide

/-- Every letter has its switch in the map of R76. -/
theorem switchFunction_letter : ∀ i : LetterIdx, switchFunction (switchOf (letterRow i) (letterCol i)) = .letter i := by
  decide

/-- Every modifier has its switch in the map of R76. -/
theorem switchFunction_modifier (m : Modifier) : switchFunction (switchOf (modifierRow m) (modifierCol m)) = .modifier m := by
  cases m <;> decide

/-- A switch's bit of CUR after ASSEMBLE: its mask bit in its own row, as before in every other (R140, R146). -/
theorem fedBy_assembleInto (r : RowIdx) (mask : Mask) (ks : KeyboardState) (k : SwitchIdx) :
    (assembleInto r mask ks).fedBy k =
      if switchRow k = r then (ks.fedBy k).map (fun _ => maskBit mask (switchCol k)) else ks.fedBy k := by
  have h := switchFunction_place k
  unfold KeyboardState.fedBy
  cases hf : switchFunction k with
  | letter i =>
    simp only [hf, placeAgrees, decide_eq_true_eq] at h
    simp only [assembleInto_letter, h.1, h.2]
    split <;> simp
  | modifier m =>
    simp only [hf, placeAgrees, decide_eq_true_eq] at h
    have hm := assembleInto_modifier r mask ks m
    simp only [KeyboardState.modifier] at hm
    simp only [hm, h.1, h.2]
    split <;> simp
  | layerKeyL =>
    simp only [hf, placeAgrees, decide_eq_true_eq] at h
    simp only [assembleInto_layer, h.1, h.2, eq_comm (a := r)]
    split <;> simp
  | layerKeyR =>
    simp only [hf, placeAgrees, decide_eq_true_eq] at h
    simp only [assembleInto_layer, h.1, h.2, eq_comm (a := r)]
    split <;> simp
  | unused => simp

/-- Two KeyboardStates with the same bit at every switch are equal: the 47 used switches feed every bit (R25, R76). -/
theorem keyboardState_ext {a b : KeyboardState} (h : ∀ k, a.fedBy k = b.fedBy k) : a = b := by
  obtain ⟨al, as, am⟩ := a
  obtain ⟨bl, bs, bm⟩ := b
  have hl : al = bl := Vector.ext fun i hi => by
    have := h (switchOf (letterRow ⟨i, hi⟩) (letterCol ⟨i, hi⟩))
    simpa [KeyboardState.fedBy, switchFunction_letter] using this
  have hm : am = bm := Vector.ext fun i hi => by
    have := h (switchOf (modifierRow (modifierOf ⟨i, hi⟩)) (modifierCol (modifierOf ⟨i, hi⟩)))
    simpa [KeyboardState.fedBy, switchFunction_modifier] using this
  have h0 : layerBit0 as = layerBit0 bs := Option.some.inj (h 40)
  have h1 : layerBit1 as = layerBit1 bs := Option.some.inj (h 43)
  rw [hl, hm, layer_ext h0 h1]

end Sys2Proof.Machine
end

