-- ==== Sys2Proof/Laws/Emitter.lean ====
section
/-! SUPPORT. What EMIT's operation does, said once (44_differ_emitter.md R180 to R196). -/

namespace Sys2Proof.Machine

/-- EMIT records the events of the difference and acts on HOSTSET, and nothing else (R180, R189). -/
theorem State.emit_eq (s : State) :
    s.emit = { s with
      calls := s.calls ++ (diffEvents s.config.params s.cur s.prev).map Call.event
      hostSet := (diffEvents s.config.params s.cur s.prev).foldl (fun h e => hostAfterEvent e h) s.hostSet } :=
  State.emitEvents_eq _ _

/-- A letter without an edge emits nothing (R180). -/
theorem letterEvents_noEdge (p : Params) {cur prev : KeyboardState} {i : LetterIdx} (h : cur.letters[i] = prev.letters[i]) :
    letterEvents p cur prev i = [] := by
  simp only [Fin.getElem_fin] at h
  simp [letterEvents, isEdge, h]

/-- A letter's edge under a macro entry is a tap (R182). -/
theorem letterEvents_chord (p : Params) {cur prev : KeyboardState} {i : LetterIdx} (h : cur.letters[i] ≠ prev.letters[i])
    (hc : isChord (resolveLetter p cur.layerSelector i) = true) :
    letterEvents p cur prev i = tapEvents p (resolveLetter p cur.layerSelector i) := by
  simp only [Fin.getElem_fin, ne_eq] at h
  simp [letterEvents, isEdge, h, hc]

/-- A letter's edge under an ordinary entry is one event (R183). -/
theorem letterEvents_ordinary (p : Params) {cur prev : KeyboardState} {i : LetterIdx} (h : cur.letters[i] ≠ prev.letters[i])
    (hc : isChord (resolveLetter p cur.layerSelector i) = false) :
    letterEvents p cur prev i = [pressOrRelease cur.letters[i] (resolveLetter p cur.layerSelector i).keycode] := by
  simp only [Fin.getElem_fin, ne_eq] at h
  simp [letterEvents, isEdge, h, hc]

/-- A modifier without an edge emits nothing (R184). -/
theorem modifierEvents_noEdge (p : Params) {cur prev : KeyboardState} {m : Modifier} (h : cur.modifier m = prev.modifier m) :
    modifierEvents p cur prev m = [] := by
  simp [modifierEvents, isEdge, h]

/-- A modifier's edge is one event (R184). -/
theorem modifierEvents_edge (p : Params) {cur prev : KeyboardState} {m : Modifier} (h : cur.modifier m ≠ prev.modifier m) :
    modifierEvents p cur prev m = [pressOrRelease (cur.modifier m) (modKeycode p m cur.layerSelector)] := by
  simp [modifierEvents, isEdge, h]

/-- A letter's events depend on the letters and CUR's layer alone (R181). -/
theorem letterEvents_congr {p : Params} {a a' b b' : KeyboardState} (h1 : a.letters = a'.letters) (h2 : b.letters = b'.letters)
    (h3 : a.layerSelector = a'.layerSelector) : letterEvents p a b = letterEvents p a' b' := by
  obtain ⟨a1, a2, a3⟩ := a
  obtain ⟨b1, b2, b3⟩ := b
  obtain ⟨c1, c2, c3⟩ := a'
  obtain ⟨d1, d2, d3⟩ := b'
  simp only at h1 h2 h3
  subst h1 h2 h3
  rfl

/-- A modifier's events depend on the modifiers and CUR's layer alone (R184, R185). -/
theorem modifierEvents_congr {p : Params} {a a' b b' : KeyboardState} (h1 : a.modifiers = a'.modifiers)
    (h2 : b.modifiers = b'.modifiers) (h3 : a.layerSelector = a'.layerSelector) :
    modifierEvents p a b = modifierEvents p a' b' := by
  obtain ⟨a1, a2, a3⟩ := a
  obtain ⟨b1, b2, b3⟩ := b
  obtain ⟨c1, c2, c3⟩ := a'
  obtain ⟨d1, d2, d3⟩ := b'
  simp only at h1 h2 h3
  subst h1 h2 h3
  rfl

/-- With no letter and no modifier changed EMIT has no events, whatever the two layers (R186, R187). -/
theorem diffEvents_same (p : Params) {cur prev : KeyboardState} (hl : cur.letters = prev.letters)
    (hm : cur.modifiers = prev.modifiers) : diffEvents p cur prev = [] := by
  have h1 : ∀ i, letterEvents p cur prev i = [] := fun i => letterEvents_noEdge p (by rw [hl])
  have h2 : ∀ m, modifierEvents p cur prev m = [] := fun m =>
    modifierEvents_noEdge p (by simp [KeyboardState.modifier, hm])
  simp [diffEvents, h1, h2]

end Sys2Proof.Machine
end

