-- ==== Sys2Proof/Laws/Inert.lean ====
section
/-! SUPPORT. The operations of the Debounce Gate and the Matrix Sampler neither read nor write CUR, PREV, PHASE, HOSTSET, the
request queue and the answers (40_debounce_gate.md R106, 41_matrix_sampler.md R120): each commutes with an update of those
fields, said once. -/

namespace Sys2Proof.Machine

/-- An update of fields that the Debounce Gate and the Matrix Sampler neither read nor write. -/
structure Inert (f : State → State) : Prop where
  config : ∀ s, (f s).config = s.config
  rowLine : ∀ s, (f s).rowLine = s.rowLine
  env : ∀ s, (f s).env = s.env
  cell : ∀ k s, (f s).cell k = s.cell k
  setCell : ∀ k c s, (f s).setCell k c = f (s.setCell k c)
  setEnv : ∀ e s, (f s).setEnv e = f (s.setEnv e)
  setRowLine : ∀ v s, (f s).setRowLine v = f (s.setRowLine v)
  addCall : ∀ c s, (f s).addCall c = f (s.addCall c)

theorem inert_setPhase (p : Phase) : Inert (State.setPhase p) := by constructor <;> intros <;> rfl
theorem inert_setCur (k : KeyboardState) : Inert (State.setCur k) := by constructor <;> intros <;> rfl
theorem inert_setPrev (k : KeyboardState) : Inert (State.setPrev k) := by constructor <;> intros <;> rfl
theorem inert_setHostSet (h : List Keycode) : Inert (State.setHostSet h) := by constructor <;> intros <;> rfl
theorem inert_setRequests (r : List ReqWord) : Inert (State.setRequests r) := by constructor <;> intros <;> rfl
theorem inert_reply (a : Answer) : Inert (State.reply a) := by constructor <;> intros <;> rfl

variable {f : State → State}

/-- A clock reading does not see the update. -/
theorem Inert.drawReading (hf : Inert f) (s : State) : (f s).drawReading = (s.drawReading.1, f s.drawReading.2) := by
  simp only [State.drawReading, hf.env, hf.config, hf.setEnv]
  cases s.env.readings <;> rfl

/-- A column level does not see the update. -/
theorem Inert.drawLevel (hf : Inert f) (s : State) : (f s).drawLevel = (s.drawLevel.1, f s.drawLevel.2) := by
  simp only [State.drawLevel, hf.env, hf.setEnv]
  cases s.env.levels <;> rfl

/-- An acceptance draw does not see the update. -/
theorem Inert.drawAccept (hf : Inert f) (s : State) : (f s).drawAccept = (s.drawAccept.1, f s.drawAccept.2) := by
  simp only [State.drawAccept, hf.env, hf.setEnv]
  cases s.env.accepts <;> rfl

/-- `Now()` does not see the update. -/
theorem Inert.callNow (hf : Inert f) (s : State) : (f s).callNow = (s.callNow.1, f s.callNow.2) := by
  simp only [State.callNow, hf.addCall, hf.drawReading]

/-- `Drive` does not see the update. -/
theorem Inert.drive (hf : Inert f) (r : RowIdx) (l : RowLevel) (s : State) : (f s).drive r l = f (s.drive r l) := by
  simp only [State.drive, hf.rowLine, hf.setRowLine, hf.addCall]

/-- OBSERVE does not see the update. -/
theorem Inert.observe (hf : Inert f) (k : SwitchIdx) (raw : Bool) (now : Nat) (s : State) :
    (f s).observe k raw now = ((s.observe k raw now).1, f (s.observe k raw now).2) := by
  simp only [State.observe, State.decideAccept, hf.cell, hf.config]
  cases acceptLevel s.config.params.timeWidth (noteRaw (s.cell k) raw now) now with
  | some a => simp only [hf.setCell]
  | none => simp only [hf.drawAccept, hf.setCell]

/-- The columns of SCAN_ROW do not see the update. -/
theorem Inert.scanColumns (hf : Inert f) (r : RowIdx) (now : Nat) (cols : List ColIdx) (mask : Mask) (s : State) :
    State.scanColumns r now cols mask (f s) =
      ((State.scanColumns r now cols mask s).1, f (State.scanColumns r now cols mask s).2) := by
  induction cols generalizing mask s with
  | nil => simp only [State.scanColumns]
  | cons c rest ih =>
    simp only [State.scanColumns, State.scanColumn, State.sense, hf.addCall, hf.drawLevel, hf.observe, ih]

/-- SCAN_ROW does not see the update. -/
theorem Inert.scanRow (hf : Inert f) (r : RowIdx) (now : Nat) (s : State) :
    (f s).scanRow r now = ((s.scanRow r now).1, f (s.scanRow r now).2) := by
  simp only [State.scanRow, hf.drive, hf.scanColumns]

end Sys2Proof.Machine
end

