-- ==== Sys2Proof/Laws/Sampler.lean ====
section
/-! SUPPORT. What OBSERVE and SCAN_ROW's operations do, said once (40_debounce_gate.md R100, 41_matrix_sampler.md R120). -/

namespace Sys2Proof.Machine

/-- The record of one switch after a call of the Debounce Gate with acceptance `accept` (40_debounce_gate.md R100). -/
def gate (c : DebCell) (raw : Bool) (now : Nat) (accept : Bool) : DebCell := takeStable (noteRaw c raw now) raw accept

@[simp] theorem gate_raw (c : DebCell) (raw : Bool) (now : Nat) (a : Bool) : (gate c raw now a).raw = raw := by
  simp [gate]
@[simp] theorem gate_time (c : DebCell) (raw : Bool) (now : Nat) (a : Bool) :
    (gate c raw now a).time = (noteRaw c raw now).time := by
  simp [gate]
@[simp] theorem gate_stable (c : DebCell) (raw : Bool) (now : Nat) (a : Bool) :
    (gate c raw now a).stable = if a then raw else c.stable := by
  simp [gate]

/-- The acceptance of a call agrees with the exact comparison wherever the spec gives one (R101, R102). -/
def AcceptOk (timeWidth : Nat) (c : DebCell) (raw : Bool) (now : Nat) (accept : Bool) : Prop :=
  ∀ b, acceptLevel timeWidth (noteRaw c raw now) now = some b → accept = b

/-- Everything OBSERVE's operation can do: the switch's record goes through the gate, with the exact acceptance where there
is one and then no draw; the environment may lose one draw otherwise; nothing else changes. -/
theorem State.observe_spec (k : SwitchIdx) (raw : Bool) (now : Nat) (s : State) :
    ∃ a e, s.observe k raw now =
        ((gate (s.cell k) raw now a).stable, (s.setEnv e).setCell k (gate (s.cell k) raw now a)) ∧
      e.readings = s.env.readings ∧ e.levels = s.env.levels ∧
      AcceptOk s.config.params.timeWidth (s.cell k) raw now a ∧
      (∀ b, acceptLevel s.config.params.timeWidth (noteRaw (s.cell k) raw now) now = some b → e = s.env) := by
  cases hb : acceptLevel s.config.params.timeWidth (noteRaw (s.cell k) raw now) now with
  | some b =>
    exact ⟨b, s.env, by simp only [State.observe, State.decideAccept, hb, gate]; rfl, rfl, rfl,
      fun b' hb' => by simp_all, fun _ _ => rfl⟩
  | none =>
    obtain ⟨b, e, he, hr, hl⟩ := s.drawAccept_spec
    exact ⟨b, e, by simp only [State.observe, State.decideAccept, hb, he, gate], hr, hl,
      fun b' hb' => by simp_all, fun b' hb' => by simp_all⟩

/-- OBSERVE's operation when the acceptance is exact. -/
theorem State.observe_exact {k : SwitchIdx} {raw : Bool} {now : Nat} {s : State} {b : Bool}
    (h : acceptLevel s.config.params.timeWidth (noteRaw (s.cell k) raw now) now = some b) :
    s.observe k raw now = ((gate (s.cell k) raw now b).stable, s.setCell k (gate (s.cell k) raw now b)) := by
  obtain ⟨a, e, he, -, -, ha, hx⟩ := s.observe_spec k raw now
  rw [he, ha b h, hx b h]
  rfl

/-- What a run of SCAN_ROW over some columns of row `r` leaves: each of them sensed in order and passed once through the
gate, its mask bit the accepted level, every other record and field as before. -/
structure ScanSpec (r : RowIdx) (now : Nat) (cols : List ColIdx) (mask : Mask) (s : State) (mask' : Mask) (s' : State)
    (raw accept : ColIdx → Bool) : Prop where
  config : s'.config = s.config
  cur : s'.cur = s.cur
  prev : s'.prev = s.prev
  rowLine : s'.rowLine = s.rowLine
  phase : s'.phase = s.phase
  hostSet : s'.hostSet = s.hostSet
  requests : s'.requests = s.requests
  answers : s'.answers = s.answers
  calls : s'.calls = s.calls ++ cols.map Call.sense
  readings : s'.env.readings = s.env.readings
  maskBits : ∀ c, maskBit mask' c = if c ∈ cols then s'.debStable[switchOf r c] else maskBit mask c
  scanned : ∀ c ∈ cols, s'.cell (switchOf r c) = gate (s.cell (switchOf r c)) (raw c) now (accept c)
  accepted : ∀ c ∈ cols, AcceptOk s.config.params.timeWidth (s.cell (switchOf r c)) (raw c) now (accept c)
  others : ∀ k, (∀ c ∈ cols, k ≠ switchOf r c) → s'.cell k = s.cell k
  levels : ∀ lv rest, s.env.levels = lv ++ rest → lv.length = cols.length →
    s'.env.levels = rest ∧ cols.map raw = lv.map pressedLevel

/-- Everything the columns of SCAN_ROW can do. -/
theorem State.scanColumns_spec (r : RowIdx) (now : Nat) (cols : List ColIdx) (hnd : cols.Nodup) (mask : Mask) (s : State) :
    ∃ mask' s' raw accept, State.scanColumns r now cols mask s = (mask', s') ∧ ScanSpec r now cols mask s mask' s' raw accept := by
  induction cols generalizing mask s with
  | nil =>
    refine ⟨mask, s, fun _ => false, fun _ => false, rfl, ?_⟩
    constructor <;> simp +contextual
  | cons c rest ih =>
    obtain ⟨hc, hrest⟩ := List.nodup_cons.mp hnd
    obtain ⟨l, e, hsense, hrd, hacc⟩ := s.sense_spec c
    have hlv : ∀ l' lrest, s.env.levels = l' :: lrest → l = l' ∧ e.levels = lrest := by
      intro l' lrest h
      have := (s.addCall (.sense c)).drawLevel_listed (l := l') (rest := lrest) h
      rw [State.sense] at hsense
      rw [this] at hsense
      have h2 := congrArg Prod.snd hsense
      have h3 := congrArg Prod.fst hsense
      exact ⟨h3.symm, by simpa [State.setEnv] using (congrArg (fun s => s.env.levels) h2).symm⟩
    obtain ⟨a, e', hobs, hrd', hlv', hok, -⟩ :=
      ((s.addCall (.sense c)).setEnv e).observe_spec (switchOf r c) (pressedLevel l) now
    have hcell : ((s.addCall (.sense c)).setEnv e).cell (switchOf r c) = s.cell (switchOf r c) := rfl
    rw [hcell] at hobs hok
    obtain ⟨mask', s', raw, acc, hs', spec⟩ := ih hrest
      (setMaskBit mask c (gate (s.cell (switchOf r c)) (pressedLevel l) now a).stable)
      ((((s.addCall (.sense c)).setEnv e).setEnv e').setCell (switchOf r c) (gate (s.cell (switchOf r c)) (pressedLevel l) now a))
    have hne : ∀ c' ∈ rest, switchOf r c' ≠ switchOf r c := fun c' h' he =>
      hc ((switchOf_inj he).2 ▸ h')
    have hself : s'.cell (switchOf r c) = gate (s.cell (switchOf r c)) (pressedLevel l) now a := by
      rw [spec.others _ (fun c' h' => (hne c' h').symm)]
      simp
    refine ⟨mask', s', fun c' => if c' = c then pressedLevel l else raw c', fun c' => if c' = c then a else acc c', ?_, ?_⟩
    · simp only [State.scanColumns, State.scanColumn, hsense, hobs]
      exact hs'
    · constructor
      · simpa using spec.config
      · simpa using spec.cur
      · simpa using spec.prev
      · simpa using spec.rowLine
      · simpa using spec.phase
      · simpa using spec.hostSet
      · simpa using spec.requests
      · simpa using spec.answers
      · simpa using spec.calls
      · rw [spec.readings]; simpa [hrd'] using hrd
      · intro c'
        rw [spec.maskBits]
        by_cases h1 : c' = c
        · subst h1
          have := congrArg DebCell.stable hself
          simpa [hc, State.cell] using this.symm
        · simp [h1]
      · intro c' hc'
        by_cases h1 : c' = c
        · subst h1; simpa using hself
        · have hm : c' ∈ rest := by simpa [h1] using hc'
          simpa [h1, State.cell_setCell_other (hne c' hm)] using spec.scanned c' hm
      · intro c' hc'
        by_cases h1 : c' = c
        · subst h1; simpa using hok
        · have hm : c' ∈ rest := by simpa [h1] using hc'
          simpa [h1, State.cell_setCell_other (hne c' hm)] using spec.accepted c' hm
      · intro k hk
        rw [spec.others k (fun c' h' => hk c' (List.mem_cons_of_mem _ h')),
          State.cell_setCell_other (hk c (List.mem_cons_self ..))]
        rfl
      · intro lv rst h hlen
        cases lv with
        | nil => simp at hlen
        | cons l' lv =>
          obtain ⟨hl1, hl2⟩ := hlv l' (lv ++ rst) (by simpa using h)
          obtain ⟨h1, h2⟩ := spec.levels lv rst (by simpa [hlv'] using hl2) (by simpa using hlen)
          refine ⟨h1, ?_⟩
          have hmap : rest.map (fun c' => if c' = c then pressedLevel l else raw c') = rest.map raw :=
            List.map_congr_left fun c' h' => by
              have : c' ≠ c := fun e => hc (e ▸ h')
              simp [this]
          rw [List.map_cons, hmap, h2]
          simp [hl1]

/-- What SCAN_ROW(r, now) leaves (41_matrix_sampler.md R120 to R123). -/
structure RowScanned (r : RowIdx) (now : Nat) (s : State) (mask : Mask) (s' : State) (raw accept : ColIdx → Bool) : Prop where
  config : s'.config = s.config
  cur : s'.cur = s.cur
  prev : s'.prev = s.prev
  rowLine : s'.rowLine = s.rowLine.set r.val .inactive r.isLt
  phase : s'.phase = s.phase
  hostSet : s'.hostSet = s.hostSet
  requests : s'.requests = s.requests
  answers : s'.answers = s.answers
  calls : s'.calls = s.calls ++ [.drive r .active] ++ (List.finRange 12).map Call.sense ++ [.drive r .inactive]
  readings : s'.env.readings = s.env.readings
  maskBits : ∀ c, maskBit mask c = s'.debStable[switchOf r c]
  scanned : ∀ c, s'.cell (switchOf r c) = gate (s.cell (switchOf r c)) (raw c) now (accept c)
  accepted : ∀ c, AcceptOk s.config.params.timeWidth (s.cell (switchOf r c)) (raw c) now (accept c)
  others : ∀ k, switchRow k ≠ r → s'.cell k = s.cell k
  levels : ∀ lv rest, s.env.levels = lv ++ rest → lv.length = 12 →
    s'.env.levels = rest ∧ (List.finRange 12).map raw = lv.map pressedLevel

/-- Everything SCAN_ROW can do. -/
theorem State.scanRow_spec (r : RowIdx) (now : Nat) (s : State) :
    ∃ mask s' raw accept, s.scanRow r now = (mask, s') ∧ RowScanned r now s mask s' raw accept := by
  obtain ⟨mask, s', raw, acc, h, spec⟩ :=
    State.scanColumns_spec r now (List.finRange 12) (List.nodup_finRange 12) 0#12 (s.drive r .active)
  refine ⟨mask, s'.drive r .inactive, raw, acc, by simp [State.scanRow, h], ?_⟩
  have hmem : ∀ c : ColIdx, c ∈ List.finRange 12 := List.mem_finRange
  have hcell : ∀ k, (s.drive r .active).cell k = s.cell k := fun k => rfl
  constructor
  · simpa [State.drive] using spec.config
  · simpa [State.drive] using spec.cur
  · simpa [State.drive] using spec.prev
  · simp [State.drive, spec.rowLine]
  · simpa [State.drive] using spec.phase
  · simpa [State.drive] using spec.hostSet
  · simpa [State.drive] using spec.requests
  · simpa [State.drive] using spec.answers
  · simp [State.drive, spec.calls]
  · simpa [State.drive] using spec.readings
  · intro c; simpa [State.drive, hmem] using spec.maskBits c
  · intro c; exact spec.scanned c (hmem c)
  · intro c; exact spec.accepted c (hmem c)
  · intro k hk
    exact spec.others k fun c _ he => hk (by rw [he]; simp)
  · intro lv rest hl hlen
    exact spec.levels lv rest hl (by simpa using hlen)

end Sys2Proof.Machine
end

