-- ==== Sys2Proof/Laws/Cycle.lean ====
section
/-! SUPPORT. What one row of the scan cycle, the sequencer's step and a request do, said once (45_scan_cycle.md R210, R215,
R220). -/

namespace Sys2Proof.Machine

/-- One row of the cycle: a clock reading, SCAN_ROW with it, ASSEMBLE of its mask, and nothing else (R210, R214). -/
theorem State.scanAssemble_spec (r : RowIdx) (s : State) :
    ∃ now e mask s' raw accept, s.scanAssemble r = s'.setCur (assembleInto r mask s.cur) ∧
      now < 2 ^ s.config.params.timeWidth ∧ RowScanned r now ((s.addCall .now).setEnv e) mask s' raw accept ∧
      e.levels = s.env.levels ∧
      ∀ t rest, s.env.readings = t :: rest → now = t % 2 ^ s.config.params.timeWidth ∧ e.readings = rest := by
  obtain ⟨now, e, hnow, hlt, hlv, -⟩ := s.callNow_spec
  obtain ⟨mask, s', raw, acc, hscan, spec⟩ := ((s.addCall .now).setEnv e).scanRow_spec r now
  refine ⟨now, e, mask, s', raw, acc, ?_, hlt, spec, hlv, fun t rest h => ?_⟩
  · simp only [State.scanAssemble, hnow, hscan, State.assemble]
    rw [spec.cur]; rfl
  · have hx := (s.addCall .now).drawReading_listed h
    rw [State.callNow, hx] at hnow
    obtain ⟨h1, h2⟩ := Prod.mk.inj hnow
    exact ⟨h1.symm, (congrArg (fun u => u.env.readings) h2).symm⟩

/-- What the rows of a scan leave, each row scanned and assembled once: `now` is each row's reading, `raw` each switch's raw
press, `accept` each switch's acceptance (45_scan_cycle.md R210, R212, R214). -/
structure RowsScanned (rows : List RowIdx) (s u : State) (now : RowIdx → Nat) (raw accept : SwitchIdx → Bool) : Prop where
  config : u.config = s.config
  prev : u.prev = s.prev
  phase : u.phase = s.phase
  hostSet : u.hostSet = s.hostSet
  requests : u.requests = s.requests
  answers : u.answers = s.answers
  rowLine : ∀ r : RowIdx, u.rowLine[r] = if r ∈ rows then .inactive else s.rowLine[r]
  calls : u.calls = s.calls ++ rows.flatMap fun r =>
    Call.now :: .drive r .active :: ((List.finRange 12).map Call.sense ++ [.drive r .inactive])
  fits : ∀ r, r ∈ rows → now r < 2 ^ s.config.params.timeWidth
  scanned : ∀ k, switchRow k ∈ rows → u.cell k = gate (s.cell k) (raw k) (now (switchRow k)) (accept k)
  accepted : ∀ k, switchRow k ∈ rows →
    AcceptOk s.config.params.timeWidth (s.cell k) (raw k) (now (switchRow k)) (accept k)
  others : ∀ k, switchRow k ∉ rows → u.cell k = s.cell k
  cur : ∀ k, u.cur.fedBy k =
    if switchRow k ∈ rows then (s.cur.fedBy k).map (fun _ => u.debStable[k]) else s.cur.fedBy k
  readings : ∀ ts rest, s.env.readings = ts ++ rest → ts.length = rows.length →
    u.env.readings = rest ∧ rows.map now = ts.map (· % 2 ^ s.config.params.timeWidth)
  levels : ∀ lv rest, s.env.levels = lv ++ rest → lv.length = 12 * rows.length →
    u.env.levels = rest ∧ rows.flatMap (fun r => (List.finRange 12).map fun c => raw (switchOf r c)) = lv.map pressedLevel

/-- Everything the rows of a scan can do. -/
theorem State.scanRows_spec (rows : List RowIdx) (hnd : rows.Nodup) (s : State) :
    ∃ now raw accept, RowsScanned rows s (rows.foldl (fun s r => s.scanAssemble r) s) now raw accept := by
  induction rows generalizing s with
  | nil =>
    refine ⟨fun _ => 0, fun _ => false, fun _ => false, ?_⟩
    constructor <;> simp +contextual
  | cons r rest ih =>
    obtain ⟨hr, hrest⟩ := List.nodup_cons.mp hnd
    obtain ⟨now, e, mask, s', raw, acc, hsa, hlt, spec, hlv, hrd⟩ := s.scanAssemble_spec r
    obtain ⟨now', raw', acc', ih⟩ := ih hrest (s.scanAssemble r)
    rw [List.foldl_cons]
    generalize rest.foldl (fun s r => s.scanAssemble r) (s.scanAssemble r) = u at ih ⊢
    obtain ⟨ks, hks⟩ : ∃ ks, ks = assembleInto r mask s.cur := ⟨_, rfl⟩
    rw [hsa, ← hks] at ih
    have hne : ∀ k, switchRow k ∈ rest → switchRow k ≠ r := fun k hk he => hr (he ▸ hk)
    have hother : ∀ k, switchRow k ≠ r → s'.cell k = s.cell k := fun k hk => spec.others k hk
    have hself : ∀ k, switchRow k = r → u.cell k = s'.cell k := fun k hk =>
      (ih.others k (by rw [hk]; exact hr)).trans (State.cell_setCur _ _ _)
    refine ⟨fun r' => if r' = r then now else now' r', fun k => if switchRow k = r then raw (switchCol k) else raw' k,
      fun k => if switchRow k = r then acc (switchCol k) else acc' k, ?_⟩
    constructor
    · rw [ih.config]; exact spec.config
    · rw [ih.prev]; exact spec.prev
    · rw [ih.phase]; exact spec.phase
    · rw [ih.hostSet]; exact spec.hostSet
    · rw [ih.requests]; exact spec.requests
    · rw [ih.answers]; exact spec.answers
    · intro r'
      rw [ih.rowLine r']
      by_cases h1 : r' ∈ rest
      · simp [h1]
      · have hs : s'.rowLine = s.rowLine.set r.val .inactive r.isLt := spec.rowLine
        by_cases h2 : r' = r
        · subst h2; simp [hs]
        · have h3 : r.val ≠ r'.val := fun h => h2 (Fin.ext h.symm)
          simp [h1, h2, hs, h3]
    · rw [ih.calls]
      have hs : s'.calls = _ := spec.calls
      simp [hs]
    · intro r' hr'
      by_cases h : r' = r
      · simpa [h] using hlt
      · have := ih.fits r' (by simpa [h] using hr')
        rw [State.setCur_config, spec.config] at this
        simpa [h] using this
    · intro k hk
      by_cases h : switchRow k = r
      · have h1 := spec.scanned (switchCol k)
        rw [← h, switchOf_row_col] at h1
        simp only [h, if_true]
        rw [hself k h, h1]; rfl
      · have h1 := ih.scanned k (by simpa [h] using hk)
        rw [State.cell_setCur, hother k h] at h1
        simpa only [h, if_false] using h1
    · intro k hk
      by_cases h : switchRow k = r
      · have h1 := spec.accepted (switchCol k)
        rw [← h, switchOf_row_col] at h1
        simp only [h, if_true]
        exact h1
      · have h1 := ih.accepted k (by simpa [h] using hk)
        rw [State.cell_setCur, hother k h, State.setCur_config, spec.config] at h1
        simp only [h, if_false]
        exact h1
    · intro k hk
      have h1 : switchRow k ≠ r := fun h => hk (by simp [h])
      have h2 : switchRow k ∉ rest := fun h => hk (by simp [h])
      rw [ih.others k h2, State.cell_setCur, hother k h1]
    · intro k
      rw [ih.cur k, State.setCur_cur, hks, fedBy_assembleInto]
      by_cases h : switchRow k = r
      · have h1 : switchRow k ∉ rest := by rw [h]; exact hr
        have h2 := spec.maskBits (switchCol k)
        have hk : switchOf r (switchCol k) = k := by rw [← h, switchOf_row_col]
        simp only [hk] at h2
        have h3 : u.debStable[k] = s'.debStable[k] := congrArg DebCell.stable (hself k h)
        rw [if_neg h1, if_pos h, if_pos (by simp [h]), h2, h3]
      · by_cases h1 : switchRow k ∈ rest
        · rw [if_pos h1, if_neg h, if_pos (by simp [h1])]
        · rw [if_neg h1, if_neg h, if_neg (by simp [h, h1])]
    · intro ts rst h hlen
      cases ts with
      | nil => simp at hlen
      | cons t ts =>
        obtain ⟨h1, h2⟩ := hrd t (ts ++ rst) (by simpa using h)
        have h3 : s'.env.readings = ts ++ rst := spec.readings.trans h2
        obtain ⟨h4, h5⟩ := ih.readings ts rst h3 (by simpa using hlen)
        refine ⟨h4, ?_⟩
        have hmap : rest.map (fun r' => if r' = r then now else now' r') = rest.map now' :=
          List.map_congr_left fun r' h' => by
            have : r' ≠ r := fun he => hr (he ▸ h')
            simp [this]
        rw [List.map_cons, hmap, h5, State.setCur_config, spec.config]
        simp [h1]
    · intro lv rst h hlen
      have hlen' : lv.length = 12 * rest.length + 12 := by simpa [Nat.mul_add] using hlen
      obtain ⟨h1, h2⟩ := spec.levels (lv.take 12) (lv.drop 12 ++ rst)
        (by rw [State.setEnv_env, hlv, h, ← List.append_assoc, List.take_append_drop]) (by simp; omega)
      obtain ⟨h3, h4⟩ := ih.levels (lv.drop 12) rst h1 (by simp; omega)
      refine ⟨h3, ?_⟩
      have hmap : (rest.flatMap fun r' => (List.finRange 12).map fun c =>
            if switchRow (switchOf r' c) = r then raw (switchCol (switchOf r' c)) else raw' (switchOf r' c)) =
          rest.flatMap fun r' => (List.finRange 12).map fun c => raw' (switchOf r' c) := by
        simp only [List.flatMap]
        congr 1
        refine List.map_congr_left fun r' h' => ?_
        have : r' ≠ r := fun he => hr (he ▸ h')
        simp [this]
      rw [List.flatMap_cons, hmap, h4]
      simp only [switchRow_switchOf, switchCol_switchOf, if_true]
      rw [h2, ← List.map_append, List.take_append_drop]

/-- The queue decides what a step does: the sequencer when it is empty. -/
theorem step_noRequest {s : State} (h : s.requests = []) : step s = .next s.sequencerStep := by
  simp [step, State.fetch, h]

/-- A legal request word runs its operation (R220). -/
theorem step_request {s : State} {w : ReqWord} {rest : List ReqWord} {i : Instr} (h : s.requests = w :: rest)
    (hd : decodeWord w = .ok i) : step s = exec i (s.setRequests rest) := by
  simp [step, State.fetch, h, hd]

/-- An illegal request word is refused (30_encoding.md R81). -/
theorem step_illegal {s : State} {w : ReqWord} {rest : List ReqWord} {why : Illegal} (h : s.requests = w :: rest)
    (hd : decodeWord w = .error why) : step s = .refused (.illegalRequest why) := by
  simp [step, State.fetch, h, hd]

/-- Everything a step can do when it goes on: the sequencer's step, or a legal request. -/
theorem step_cases {s t : State} (h : step s = .next t) :
    (s.requests = [] ∧ t = s.sequencerStep) ∨
    (∃ w rest i, s.requests = w :: rest ∧ decodeWord w = .ok i ∧ exec i (s.setRequests rest) = .next t) := by
  cases hr : s.requests with
  | nil => rw [step_noRequest hr] at h; exact .inl ⟨rfl, (Host.Outcome.next.inj h).symm⟩
  | cons w rest =>
    cases hd : decodeWord w with
    | ok i => rw [step_request hr hd] at h; exact .inr ⟨w, rest, i, rfl, hd, h⟩
    | error why => rw [step_illegal hr hd] at h; cases h

/-- Everything a direct request can do when it goes on: its own operation, with the result given back where it has one. -/
theorem exec_cases {i : Instr} {s t : State} (h : exec i s = .next t) :
    (∃ k raw now e b u, i = .observe k raw ∧ s.drawReading = (now, s.setEnv e) ∧ now < 2 ^ s.config.params.timeWidth ∧
      (s.setEnv e).observe k raw now = (b, u) ∧ t = u.reply (.stable b)) ∨
    (∃ r now e mask u, i = .scanRow r ∧ s.drawReading = (now, s.setEnv e) ∧ now < 2 ^ s.config.params.timeWidth ∧
      (s.setEnv e).scanRow r now = (mask, u) ∧ t = u.reply (.mask mask)) ∨
    (∃ r mask, i = .assemble r mask ∧ t = s.assemble r mask) ∨
    (∃ a, ((∃ l j, i = .resolve l j) ∨ (∃ key l, i = .resolveSpecial key l)) ∧ t = s.reply a) ∨
    (i = .emit ∧ t = s.emit) ∨ (i = .commit ∧ t = s.commit) ∨
    (i = .cycle ∧ s.phase = .scan 0 ∧ t = s.cycle) := by
  cases i with
  | observe k raw =>
    obtain ⟨now, e, hd, hlt, -, -⟩ := s.drawReading_spec
    simp only [exec, execObserve, hd] at h
    cases hx : (s.setEnv e).observe k raw now with
    | mk b u =>
      rw [hx] at h
      exact .inl ⟨k, raw, now, e, b, u, rfl, hd, hlt, hx, (Host.Outcome.next.inj h).symm⟩
  | scanRow r =>
    obtain ⟨now, e, hd, hlt, -, -⟩ := s.drawReading_spec
    simp only [exec, execScanRow, hd] at h
    cases hx : (s.setEnv e).scanRow r now with
    | mk mask u =>
      rw [hx] at h
      exact .inr (.inl ⟨r, now, e, mask, u, rfl, hd, hlt, hx, (Host.Outcome.next.inj h).symm⟩)
  | assemble r mask => exact .inr (.inr (.inl ⟨r, mask, rfl, (Host.Outcome.next.inj h).symm⟩))
  | resolve l j => exact .inr (.inr (.inr (.inl ⟨_, .inl ⟨l, j, rfl⟩, (Host.Outcome.next.inj h).symm⟩)))
  | resolveSpecial key l => exact .inr (.inr (.inr (.inl ⟨_, .inr ⟨key, l, rfl⟩, (Host.Outcome.next.inj h).symm⟩)))
  | emit => exact .inr (.inr (.inr (.inr (.inl ⟨rfl, (Host.Outcome.next.inj h).symm⟩))))
  | commit => exact .inr (.inr (.inr (.inr (.inr (.inl ⟨rfl, (Host.Outcome.next.inj h).symm⟩)))))
  | cycle =>
    simp only [exec, execCycle] at h
    split at h
    · next hp => exact .inr (.inr (.inr (.inr (.inr (.inr ⟨rfl, hp, (Host.Outcome.next.inj h).symm⟩)))))
    · cases h

/-! ### What each instruction answers -/

/-- OBSERVE goes on, with the gate's result given back (R100). -/
theorem exec_observe {k : SwitchIdx} {raw : Bool} {s u v : State} {now : Nat} {b : Bool} (hd : s.drawReading = (now, u))
    (ho : u.observe k raw now = (b, v)) : exec (.observe k raw) s = .next (v.reply (.stable b)) := by
  simp only [exec, execObserve, hd, ho]

/-- SCAN_ROW goes on, with the mask given back (R120). -/
theorem exec_scanRow {r : RowIdx} {s u v : State} {now : Nat} {m : Mask} (hd : s.drawReading = (now, u))
    (ho : u.scanRow r now = (m, v)) : exec (.scanRow r) s = .next (v.reply (.mask m)) := by
  simp only [exec, execScanRow, hd, ho]

/-- ASSEMBLE goes on and writes CUR (R140). -/
theorem exec_assemble (r : RowIdx) (mask : Mask) (s : State) :
    exec (.assemble r mask) s = .next (s.setCur (assembleInto r mask s.cur)) := rfl

/-- RESOLVE goes on, with the decoded entry given back (R160). -/
theorem exec_resolve (l : Layer) (i : LetterIdx) (s : State) :
    exec (.resolve l i) s = .next (s.reply (entryAnswer (resolveLetter s.config.params l i))) := rfl

/-- RESOLVE_SPECIAL goes on, with the keycode given back (R163). -/
theorem exec_resolveSpecial (key : SpecialKey) (l : Layer) (s : State) :
    exec (.resolveSpecial key l) s = .next (s.reply (.keycode (resolveSpecialKey s.config.params key l))) := rfl

/-- EMIT goes on (R180). -/
theorem exec_emit (s : State) : exec .emit s = .next s.emit := rfl

/-- COMMIT goes on (R211). -/
theorem exec_commit (s : State) : exec .commit s = .next (s.setPrev s.cur) := rfl

/-- CYCLE goes on at SCAN0 (R210, R220). -/
theorem exec_cycle {s : State} (h : s.phase = .scan 0) : exec .cycle s = .next s.cycle := by
  simp only [exec, execCycle, h, if_true]

/-- CYCLE is refused at every other phase (R220; log 12). -/
theorem exec_cycle_refused {s : State} (h : s.phase ≠ .scan 0) : exec .cycle s = .refused (.cycleNotAtScan0 s.phase) := by
  simp only [exec, execCycle, h, if_false]

/-! ### The phase only says which operation comes next (45_scan_cycle.md R215, R216) -/

/-- A row of the cycle does not see PHASE. -/
theorem State.scanAssemble_setPhase (p : Phase) (r : RowIdx) (s : State) :
    (s.setPhase p).scanAssemble r = (s.scanAssemble r).setPhase p := by
  have hf := inert_setPhase p
  simp only [State.scanAssemble, hf.callNow, hf.scanRow, State.assemble, State.setPhase_cur]
  generalize (State.scanRow _ _ _) = x
  rfl

/-- EMIT does not see PHASE. -/
theorem State.emit_setPhase (p : Phase) (s : State) : (s.setPhase p).emit = s.emit.setPhase p := by
  rw [State.emit_eq, State.emit_eq, State.setPhase_config, State.setPhase_cur, State.setPhase_prev]
  generalize diffEvents _ _ _ = x
  rfl

/-- COMMIT does not see PHASE. -/
theorem State.commit_setPhase (p : Phase) (s : State) : (s.setPhase p).commit = s.commit.setPhase p := rfl

/-- The last PHASE written stands. -/
theorem State.setPhase_setPhase (p q : Phase) (s : State) : (s.setPhase q).setPhase p = s.setPhase p := rfl

/-- CYCLE is its six operations in order, ending at SCAN0 (R210, R216). -/
theorem State.cycle_eq (s : State) :
    s.cycle = ((((((s.scanAssemble 0).scanAssemble 1).scanAssemble 2).scanAssemble 3).emit).commit).setPhase (.scan 0) := by
  have : List.finRange 4 = [0, 1, 2, 3] := by decide
  simp only [State.cycle, this, List.foldl_cons, List.foldl_nil, State.scanAssemble_setPhase, State.emit_setPhase,
    State.commit_setPhase, State.setPhase_setPhase]

/-- CYCLE is its four rows, EMIT and COMMIT, ending at SCAN0 (R210). -/
theorem State.cycle_rows (s : State) :
    s.cycle = (((List.finRange 4).foldl (fun s r => s.scanAssemble r) s).emit.commit).setPhase (.scan 0) := by
  rw [State.cycle_eq]
  have : List.finRange 4 = [0, 1, 2, 3] := by decide
  simp only [this, List.foldl_cons, List.foldl_nil]

end Sys2Proof.Machine
end

