-- ==== Sys2Proof/Laws/Decode.lean ====
section
/-! SUPPORT. The fields of a request word, said once: a field of a number, the masks of the opcode table as comparisons of
numbers, and the bytes of a word (30_encoding.md R80 to R82). -/

namespace Sys2Proof

/-- A field of a word written as a number. -/
theorem bitField_ofNat {n : Nat} (h : n < 2 ^ 32) (lo len : Nat) : bitField (BitVec.ofNat 32 n) lo len = n / 2 ^ lo % 2 ^ len := by
  simp only [bitField, BitVec.toNat_ofNat, Nat.mod_eq_of_lt h]

/-- A 2-bit field as a layer selector keeps its number (10_state.md R23). -/
theorem code_layerOfField (n : Nat) : (layerOfField n).code.val = n % 4 := by
  have : n % 4 = 0 ∨ n % 4 = 1 ∨ n % 4 = 2 ∨ n % 4 = 3 := by omega
  rcases this with h | h | h | h <;> simp [layerOfField, h, Layer.code]

/-- A layer selector comes back from its number. -/
@[simp] theorem layerOfField_code (l : Layer) : layerOfField l.code.val = l := by cases l <;> rfl

/-- A 1-bit field as a special key keeps its number (R80). -/
theorem code_keyOfField {n : Nat} (h : n < 2) : (keyOfField n).code = n := by
  have : n = 0 ∨ n = 1 := by omega
  rcases this with h | h <;> simp [keyOfField, h, SpecialKey.code]

/-- The operation code's mask is the number modulo 8. -/
theorem and_opCode (w : ReqWord) (p : Nat) (hp : p < 8) : w &&& 7#32 = BitVec.ofNat 32 p ↔ w.toNat % 8 = p := by
  rw [← BitVec.toNat_inj, BitVec.toNat_and, BitVec.toNat_ofNat, BitVec.toNat_ofNat, Nat.mod_eq_of_lt (show p < 2 ^ 32 by omega),
    show (7 % 2 ^ 32 : Nat) = 2 ^ 3 - 1 by decide, Nat.and_two_pow_sub_one_eq_mod]

/-- A must-be-zero mask from bit k up is a comparison of the number with 2^k. -/
theorem and_highBits (w : ReqWord) (k : Nat) (hk : k ≤ 32) :
    w &&& ~~~(BitVec.ofNat 32 (2 ^ k - 1)) = 0#32 ↔ w.toNat < 2 ^ k := by
  have hlow : (w &&& BitVec.ofNat 32 (2 ^ k - 1)).toNat = w.toNat % 2 ^ k := by
    have h2 : (2 : Nat) ^ k ≤ 2 ^ 32 := Nat.pow_le_pow_right (by decide) hk
    have hpos : (0 : Nat) < 2 ^ k := by positivity
    rw [BitVec.toNat_and, BitVec.toNat_ofNat, Nat.mod_eq_of_lt (by omega), Nat.and_two_pow_sub_one_eq_mod]
  constructor
  · intro h
    have hw : w = w &&& BitVec.ofNat 32 (2 ^ k - 1) := by
      have hall : BitVec.ofNat 32 (2 ^ k - 1) ||| ~~~(BitVec.ofNat 32 (2 ^ k - 1)) = BitVec.allOnes 32 := by
        ext i; simp
      have := BitVec.and_or_distrib_left (x := w) (y := BitVec.ofNat 32 (2 ^ k - 1)) (z := ~~~(BitVec.ofNat 32 (2 ^ k - 1)))
      rw [h, hall, BitVec.and_allOnes, BitVec.or_zero] at this
      exact this
    have := congrArg BitVec.toNat hw
    rw [hlow] at this
    rw [this]
    exact Nat.mod_lt _ (by positivity)
  · intro h
    have hw : w = w &&& BitVec.ofNat 32 (2 ^ k - 1) :=
      BitVec.eq_of_toNat_eq (by rw [hlow, Nat.mod_eq_of_lt h])
    rw [hw, BitVec.and_assoc]
    simp

/-- A row's mask with the operation code and the bits from k up fixed: the word matches when its operation code is the row's
and its must-be-zero field is zero. -/
theorem matchesRow (w : ReqWord) (p k : Nat) (hp : p < 8) (hk3 : 3 ≤ k) (hk : k ≤ 32) :
    w &&& (~~~(BitVec.ofNat 32 (2 ^ k - 1)) ||| 7#32) = BitVec.ofNat 32 p ↔ w.toNat % 8 = p ∧ w.toNat < 2 ^ k := by
  rw [← and_opCode w p hp, ← and_highBits w k hk]
  have hp8 : BitVec.ofNat 32 p &&& 7#32 = BitVec.ofNat 32 p := by
    rw [and_opCode _ _ hp, BitVec.toNat_ofNat]; omega
  have hdis : 7#32 &&& ~~~(BitVec.ofNat 32 (2 ^ k - 1)) = 0#32 := by
    rw [and_highBits _ _ hk]
    calc (7#32).toNat < 2 ^ 3 := by decide
      _ ≤ 2 ^ k := Nat.pow_le_pow_right (by decide) hk3
  constructor
  · intro h
    constructor
    · rw [← hp8, ← h, BitVec.and_assoc, BitVec.and_comm (_ ||| _), BitVec.and_or_distrib_left, hdis, BitVec.and_self,
        BitVec.zero_or]
    · have hz : BitVec.ofNat 32 p &&& ~~~(BitVec.ofNat 32 (2 ^ k - 1)) = 0#32 := by
        rw [← hp8, BitVec.and_assoc, hdis, BitVec.and_zero]
      rw [← hz, ← h, BitVec.and_assoc, BitVec.and_comm (_ ||| _), BitVec.and_or_distrib_left, BitVec.and_self,
        BitVec.and_comm _ 7#32, hdis, BitVec.or_zero]
  · rintro ⟨h1, h2⟩
    rw [BitVec.and_or_distrib_left, h1, h2]
    simp

/-- `matchesRow` with the mask, the pattern and the bound written as numerals. -/
theorem matchesRow_lit (w : ReqWord) (p k n : Nat) (mask pattern : ReqWord) (hp : p < 8) (h3 : 3 ≤ k) (hk : k ≤ 32)
    (hm : mask = (~~~(BitVec.ofNat 32 (2 ^ k - 1)) ||| 7#32)) (hpat : pattern = BitVec.ofNat 32 p) (hn : 2 ^ k = n) :
    w &&& mask = pattern ↔ w.toNat % 8 = p ∧ w.toNat < n := by
  subst hm hpat hn
  exact matchesRow w p k hp h3 hk

/-- The words that match a row of the table, as numbers (R80). -/
theorem opcodeTable_any (w : ReqWord) : opcodeTable.any (fun r => r.matchesWord w) = true ↔
    (w.toNat % 8 = 0 ∧ w.toNat < 1024) ∨ (w.toNat % 8 = 1 ∧ w.toNat < 32) ∨ (w.toNat % 8 = 2 ∧ w.toNat < 131072) ∨
    (w.toNat % 8 = 3 ∧ w.toNat < 1024) ∨ (w.toNat % 8 = 4 ∧ w.toNat < 64) ∨ (w.toNat % 8 = 5 ∧ w.toNat < 8) ∨
    (w.toNat % 8 = 6 ∧ w.toNat < 8) ∨ (w.toNat % 8 = 7 ∧ w.toNat < 8) := by
  simp only [opcodeTable, OpcodeRow.matchesWord, List.any_cons, List.any_nil, Bool.or_false, Bool.or_eq_true, beq_iff_eq]
  rw [matchesRow_lit w 0 10 1024 0xFFFFFC07#32 0#32 (by omega) (by omega) (by omega) (by decide) rfl rfl,
    matchesRow_lit w 1 5 32 0xFFFFFFE7#32 1#32 (by omega) (by omega) (by omega) (by decide) rfl rfl,
    matchesRow_lit w 2 17 131072 0xFFFE0007#32 2#32 (by omega) (by omega) (by omega) (by decide) rfl rfl,
    matchesRow_lit w 3 10 1024 0xFFFFFC07#32 3#32 (by omega) (by omega) (by omega) (by decide) rfl rfl,
    matchesRow_lit w 4 6 64 0xFFFFFFC7#32 4#32 (by omega) (by omega) (by omega) (by decide) rfl rfl,
    matchesRow_lit w 5 3 8 0xFFFFFFFF#32 5#32 (by omega) (by omega) (by omega) (by decide) rfl rfl,
    matchesRow_lit w 6 3 8 0xFFFFFFFF#32 6#32 (by omega) (by omega) (by omega) (by decide) rfl rfl,
    matchesRow_lit w 7 3 8 0xFFFFFFFF#32 7#32 (by omega) (by omega) (by omega) (by decide) rfl rfl]

/-- The legal words, as numbers (R80, R81). -/
theorem legalWord_iff (w : ReqWord) : legalWord w = true ↔
    (w.toNat % 8 = 0 ∧ w.toNat < 1024 ∧ w.toNat / 8 % 64 < 48) ∨ (w.toNat % 8 = 1 ∧ w.toNat < 32) ∨
    (w.toNat % 8 = 2 ∧ w.toNat < 131072) ∨
    (w.toNat % 8 = 3 ∧ w.toNat < 1024 ∧ w.toNat / 32 % 32 < 30) ∨ (w.toNat % 8 = 4 ∧ w.toNat < 64) ∨ (w.toNat % 8 = 5 ∧ w.toNat < 8) ∨
    (w.toNat % 8 = 6 ∧ w.toNat < 8) ∨ (w.toNat % 8 = 7 ∧ w.toNat < 8) := by
  have h0 := and_opCode w 0 (by omega)
  have h3 := and_opCode w 3 (by omega)
  have e0 : observeOutOfRange w = true ↔ w.toNat % 8 = 0 ∧ 48 ≤ w.toNat / 8 % 64 := by
    rw [← h0]
    simp only [observeOutOfRange, Bool.and_eq_true, beq_iff_eq, decide_eq_true_eq,
      BitVec.toNat_ushiftRight, Nat.shiftRight_eq_div_pow, Nat.reducePow]
  have e3 : resolveOutOfRange w = true ↔ w.toNat % 8 = 3 ∧ 30 ≤ w.toNat / 32 % 32 := by
    rw [← h3]
    simp only [resolveOutOfRange, Bool.and_eq_true, beq_iff_eq, decide_eq_true_eq,
      BitVec.toNat_ushiftRight, Nat.shiftRight_eq_div_pow, Nat.reducePow]
  have key : legalWord w = true ↔ opcodeTable.any (fun r => r.matchesWord w) = true ∧
      ¬ (observeOutOfRange w = true) ∧ ¬ (resolveOutOfRange w = true) := by
    rw [legalWord, Bool.and_eq_true, Bool.and_eq_true, Bool.not_eq_true', Bool.not_eq_true',
      Bool.not_eq_true, Bool.not_eq_true, and_assoc]
  rw [key, opcodeTable_any, e0, e3]
  clear h0 h3 e0 e3 key
  generalize w.toNat = n
  constructor
  · rintro ⟨h|h|h|h|h|h|h|h, h2, h3⟩
    · exact .inl ⟨h.1, h.2, by omega⟩
    · exact .inr (.inl h)
    · exact .inr (.inr (.inl h))
    · exact .inr (.inr (.inr (.inl ⟨h.1, h.2, by omega⟩)))
    · exact .inr (.inr (.inr (.inr (.inl h))))
    · exact .inr (.inr (.inr (.inr (.inr (.inl h)))))
    · exact .inr (.inr (.inr (.inr (.inr (.inr (.inl h))))))
    · exact .inr (.inr (.inr (.inr (.inr (.inr (.inr h))))))
  · intro h
    refine ⟨?_, ?_, ?_⟩
    · rcases h with h|h|h|h|h|h|h|h
      · exact .inl ⟨h.1, h.2.1⟩
      · exact .inr (.inl h)
      · exact .inr (.inr (.inl h))
      · exact .inr (.inr (.inr (.inl ⟨h.1, h.2.1⟩)))
      · exact .inr (.inr (.inr (.inr (.inl h))))
      · exact .inr (.inr (.inr (.inr (.inr (.inl h)))))
      · exact .inr (.inr (.inr (.inr (.inr (.inr (.inl h))))))
      · exact .inr (.inr (.inr (.inr (.inr (.inr (.inr h))))))
    · rcases h with h|h|h|h|h|h|h|h <;> omega
    · rcases h with h|h|h|h|h|h|h|h <;> omega

/-- The bytes of a word, put together again, are the word (20_memory.md R54). -/
theorem join_wordBytes (w : ReqWord) :
    w.extractLsb' 24 8 ++ w.extractLsb' 16 8 ++ w.extractLsb' 8 8 ++ w.extractLsb' 0 8 = w := by
  have hw := w.isLt
  apply BitVec.eq_of_toNat_eq
  simp only [BitVec.toNat_append, BitVec.extractLsb'_toNat]
  rw [← Nat.shiftLeft_add_eq_or_of_lt (Nat.mod_lt _ (by decide)), ← Nat.shiftLeft_add_eq_or_of_lt (Nat.mod_lt _ (by decide)),
    ← Nat.shiftLeft_add_eq_or_of_lt (Nat.mod_lt _ (by decide))]
  simp only [Nat.shiftLeft_eq, Nat.shiftRight_eq_div_pow]
  omega

/-- Decoding the bytes of a word is decoding the word (20_memory.md R54). -/
theorem decodeBytes_wordBytes (w : ReqWord) (rest : List Byte) :
    decodeBytes (wordBytes w ++ rest) = (decodeWord w).map fun i => (i, rest) := by
  have h := join_wordBytes w
  simp only [wordBytes, List.cons_append, List.nil_append, decodeBytes, h]

end Sys2Proof
end

