-- ==== Sys2Proof/Laws/PerInstr.lean ====
section
/-! SUPPORT. Statements per instruction about its syntax: the word the encoder gives is a legal word of the opcode table
(30_encoding.md R80, R81). -/

namespace Sys2Proof.Laws.EncodedWordIsLegal

/-- The encoded word of an instruction matches its row of the opcode table and spells no index out of range. -/
def Statement (i : Instr) : Prop := legalWord (encode i) = true

theorem observe (sw : SwitchIdx) (raw : Bool) : Statement (.observe sw raw) := by
  revert sw raw; unfold Statement; decide

theorem scanRow (row : RowIdx) : Statement (.scanRow row) := by
  revert row; unfold Statement; decide

/-- ASSEMBLE's word as its three fields side by side. -/
theorem encode_assemble_fields (row : RowIdx) (mask : Mask) :
    encode (.assemble row mask) = 0#15 ++ (mask ++ BitVec.ofNat 5 (2 + row.val * 8)) := by
  have hm := mask.isLt
  have hr := row.isLt
  apply BitVec.eq_of_toNat_eq
  rw [BitVec.toNat_append, BitVec.toNat_append, BitVec.toNat_ofNat, BitVec.toNat_ofNat, encode, BitVec.toNat_ofNat,
    ← Nat.shiftLeft_add_eq_or_of_lt (a := mask.toNat) (Nat.mod_lt _ (by decide)), Nat.zero_mod, Nat.zero_shiftLeft,
    Nat.zero_or, Nat.shiftLeft_eq]
  omega

theorem assemble (row : RowIdx) (mask : Mask) : Statement (.assemble row mask) := by
  have h : encode (.assemble row mask) &&& 0xFFFE0007#32 = 2#32 := by
    rw [encode_assemble_fields, show 0xFFFE0007#32 = 32767#15 ++ (0#12 ++ 7#5) by decide]
    rw [BitVec.and_append, BitVec.and_append, BitVec.and_zero, BitVec.zero_and]
    revert row; decide
  have h7 : encode (.assemble row mask) &&& 7#32 = 2#32 := by
    rw [show 7#32 = 0xFFFE0007#32 &&& 7#32 by decide, ← BitVec.and_assoc, h]; decide
  simp [Statement, legalWord, opcodeTable, OpcodeRow.matchesWord, observeOutOfRange, resolveOutOfRange, h, h7]

theorem resolve (layer : Layer) (letter : LetterIdx) : Statement (.resolve layer letter) := by
  unfold Statement; cases layer <;> revert letter <;> decide

theorem resolveSpecial (key : SpecialKey) (layer : Layer) : Statement (.resolveSpecial key layer) := by
  unfold Statement; cases key <;> cases layer <;> decide

theorem emit : Statement .emit := by unfold Statement; decide

theorem commit : Statement .commit := by unfold Statement; decide

theorem cycle : Statement .cycle := by unfold Statement; decide

end Sys2Proof.Laws.EncodedWordIsLegal
end

