-- ==== Sys2Proof/Tests/Slice0.lean ====
section
/-! SUPPORT. Tests: expected results from 95_test_vectors.md and from the rules' own examples and tables; a refused term for
each check of WellFormed, Decode and Config; and a witness for every statement that has hypotheses. -/

namespace Sys2Proof.Tests

/- The checks of many small closed facts run one after another, so that few are in memory at once. -/
set_option Elab.async false

open Sys2Proof.Machine Sys2Proof.Claims

/-! ### The test configuration TC (95_test_vectors.md 0), with the entry bits of its illustration in 2.5 -/

/-- The encoded entry of TC at layer l, letter i. -/
def tcEntry (l i : Nat) : Entry :=
  if l = 1 ∧ i = 5 then 200 + 256
  else if l = 2 ∧ i = 7 then 201 + 256 + 512
  else if l = 3 ∧ i = 0 then 202 + 512
  else 1 + l * 30 + i

/-- TC's parameters; keycodes 121 to 133 are the MK values, 134 to 137 QB, QL, BB and BL, 138 and 139 CK_CTRL and CK_SHIFT. -/
def tcParams : Params where
  fixed := FixedParams.spec
  layout := Vector.ofFn fun l => Vector.ofFn fun i => tcEntry l.val i.val
  modKc := ⟨121, 122, 123, 124, 125, 126, 127, 128, 129, 130, 131, 132, 133⟩
  questionKcBase := 134
  questionKcLayer := 135
  backslashKcBase := 136
  backslashKcLayer := 137
  chordCtrlKc := 138
  chordShiftKc := 139
  kcBits := 8
  ctrlFlagPos := 8
  shiftFlagPos := 9
  entryBits := 16
  timeWidth := 32
  macroHoldMs := 0
  settle := 0

theorem tc_accepted : tcParams.check = none := by decide +kernel

def tc : Config := ⟨tcParams, tc_accepted⟩

/-- Reset under TC. -/
def start : State := { State.reset with config := tc }

/-- A state whose environment answers the given readings and levels next. -/
def answering (readings : List Nat) (levels : List LineLevel) (s : State) : State :=
  { s with env := ⟨readings, levels, [], 0⟩ }

/-- Twelve HIGH levels but for the listed columns. -/
def lowAt (cols : List Nat) : List LineLevel := (List.range 12).map fun c => if c ∈ cols then .low else .high

/-- A KeyboardState by its set letters, its layer and its set modifiers. -/
def keys (letters : List Nat) (l : Layer) (mods : List Modifier) : KeyboardState :=
  ⟨Vector.ofFn fun i => decide (i.val ∈ letters), l, Vector.ofFn fun m => decide (modifierOf m ∈ mods)⟩

/-- Start with the given CUR and PREV. -/
def diff (cur prev : KeyboardState) : State := { start with cur := cur, prev := prev }

/-- Start with one switch's record. -/
def withRecord (k : SwitchIdx) (c : DebCell) : State := start.setCell k c

/-- The next state of an outcome. -/
def after : Host.Outcome State Fault Refusal → Option State
  | .next s => some s
  | .fault _ => none
  | .refused _ => none

/-- The refusal of an outcome. -/
def refusal : Host.Outcome State Fault Refusal → Option Refusal
  | .next _ => none
  | .fault _ => none
  | .refused r => some r

/-- What a decoder answers, as an option. -/
def decoded (w : ReqWord) : Option Instr :=
  match decodeWord w with
  | .ok i => some i
  | .error _ => none

/-- Why a decoder refuses. -/
def illegal (w : ReqWord) : Option Illegal :=
  match decodeWord w with
  | .ok _ => none
  | .error why => some why

/-! ### Decoding: words written out bit by bit (95_test_vectors.md 2.1, 30_encoding.md R80) -/

theorem test_decode_observe : decoded 0b0000000000000000000000_1_000101_000#32 = some (.observe 5 true) ∧
    decoded 0x00000028#32 = some (.observe 5 false) ∧ decoded 0x00000378#32 = some (.observe 47 true) := by decide

theorem test_decode_scanRow : decoded 0b000000000000000000000000000_11_001#32 = some (.scanRow 3) ∧
    decoded 0x00000001#32 = some (.scanRow 0) := by decide

theorem test_decode_assemble : decoded 0b000000000000000_100000000001_01_010#32 = some (.assemble 1 0x801#12) ∧
    decoded 0x0001FFFA#32 = some (.assemble 3 0xFFF#12) ∧ decoded 0x00000802#32 = some (.assemble 0 0x040#12) := by decide

theorem test_decode_resolve : decoded 0b0000000000000000000000_00101_01_011#32 = some (.resolve .layerL 5) ∧
    decoded 0x000003BB#32 = some (.resolve .layerRL 29) ∧ decoded 0x00000043#32 = some (.resolve .base 2) := by decide

theorem test_decode_resolveSpecial :
    decoded 0b00000000000000000000000000_10_0_100#32 = some (.resolveSpecial .question .layerR) ∧
    decoded 0x0000003C#32 = some (.resolveSpecial .backslash .layerRL) := by decide

theorem test_decode_emit : decoded 0b00000000000000000000000000000_101#32 = some .emit := by decide
theorem test_decode_commit : decoded 0b00000000000000000000000000000_110#32 = some .commit := by decide
theorem test_decode_cycle : decoded 0b00000000000000000000000000000_111#32 = some .cycle := by decide

/-- The host's numbering: bit 0 is the least significant bit of the word. -/
theorem test_decodeTableWord : decodeTableWord 32 0x00000019 = some (.scanRow 3) ∧ decodeTableWord 32 0x00000180 = none := by
  decide

/-- The fields an encoder writes (R80): every one at its last value. -/
theorem test_encode : encode (.observe 47 true) = 0x00000378#32 ∧ encode (.assemble 3 0xFFF#12) = 0x0001FFFA#32 ∧
    encode (.resolve .layerRL 29) = 0x000003BB#32 ∧ encode (.resolveSpecial .backslash .layerRL) = 0x0000003C#32 := by decide

/-! ### Ill-formed terms, one for each check -/

/-- One illegal word for each must-be-zero field (R81; 95_test_vectors.md 2.1, whose last word is mended: see log 25). -/
theorem test_refused_mustBeZero : illegal 0x00000408#32 = some (.mustBeZero "OBSERVE") ∧
    illegal 0x00000021#32 = some (.mustBeZero "SCAN_ROW") ∧ illegal 0x00020002#32 = some (.mustBeZero "ASSEMBLE") ∧
    illegal 0x00000403#32 = some (.mustBeZero "RESOLVE") ∧ illegal 0x00000044#32 = some (.mustBeZero "RESOLVE_SPECIAL") ∧
    illegal 0x0000000D#32 = some (.mustBeZero "EMIT") ∧ illegal 0x80000006#32 = some (.mustBeZero "COMMIT") ∧
    illegal 0x0000000F#32 = some (.mustBeZero "CYCLE") := by decide

/-- The model's own choice (log 26): s = 48 and i = 30 with W[10] set beside them. -/
theorem test_refused_twice : illegal 0x00000580#32 = some (.mustBeZero "OBSERVE") ∧
    illegal 0x000007C3#32 = some (.mustBeZero "RESOLVE") := by decide

/-- Indices out of range (R81; 95_test_vectors.md 2.1). -/
theorem test_refused_index : illegal 0x00000180#32 = some (.switchOutOfRange 48) ∧
    illegal 0x000003C3#32 = some (.letterOutOfRange 30) := by decide

/-- Three bytes are no request word (R82). -/
theorem test_refused_short : (match decodeBytes [5#8, 0#8, 0#8] with
    | .ok _ => none
    | .error why => some why) = some (.tooShort 3) := by decide

/-- WellFormed's word check refuses the same words and takes the legal ones (R81). -/
theorem test_legalWord : legalWord 0x00000228#32 = true ∧ legalWord 0x00000408#32 = false ∧
    legalWord 0x00000021#32 = false ∧ legalWord 0x00020002#32 = false ∧ legalWord 0x00000403#32 = false ∧
    legalWord 0x00000044#32 = false ∧ legalWord 0x0000000D#32 = false ∧ legalWord 0x80000006#32 = false ∧
    legalWord 0x0000000F#32 = false ∧ observeOutOfRange 0x00000180#32 = true ∧ legalWord 0x00000180#32 = false ∧
    resolveOutOfRange 0x000003C3#32 = true ∧ legalWord 0x000003C3#32 = false := by decide

/-- A stimulus line whose reading does not fit TIME_WIDTH bits, in each place a reading stands (R83). -/
theorem test_wellFormed_readings : (StimulusLine.cycle ⟨1, 2, 3, 4, 0⟩).wellFormed 32 = true ∧
    (StimulusLine.cycle ⟨1, 2, 3, 2 ^ 32, 0⟩).wellFormed 32 = false ∧ (StimulusLine.idle (2 ^ 32)).wellFormed 32 = false ∧
    (StimulusLine.keys (2 ^ 32) [(0, 3)]).wellFormed 32 = false ∧
    (StimulusLine.repeatedStep 2 (.idle (2 ^ 32)) 5).wellFormed 32 = false := by decide +kernel

/-- REPEAT without STEP needs one reading (R84; log 14). -/
theorem test_wellFormed_repeat : (StimulusLine.repeated 3 (.idle 100)).wellFormed 32 = true ∧
    (StimulusLine.repeated 3 (.cycle ⟨100, 105, 110, 115, 0⟩)).wellFormed 32 = false := by decide +kernel

/-- The premise that the clock does not wrap (R83). -/
theorem test_nonDecreasing : nonDecreasing [100, 100, 105] = true ∧ nonDecreasing [105, 100] = false := by decide

/-- A refused parameter set for each constraint (00_scope.md R6, R8; 30_encoding.md R77, R79). -/
theorem test_params_refused :
    ({ tcParams with fixed := { FixedParams.spec with rows := 5 } } : Params).check = some .fixedConstantChanged ∧
    ({ tcParams with questionKcLayer := 134 } : Params).check = some .questionRemapSame ∧
    ({ tcParams with backslashKcLayer := 136 } : Params).check = some .backslashRemapSame ∧
    ({ tcParams with shiftFlagPos := 8 } : Params).check = some .flagPositionsEqual ∧
    ({ tcParams with ctrlFlagPos := 7 } : Params).check = some .flagInsideKeycode ∧
    ({ tcParams with shiftFlagPos := 16 } : Params).check = some .flagOutsideEntry ∧
    ({ tcParams with timeWidth := 4 } : Params).check = some .timeWidthTooSmall := by decide +kernel

theorem test_params_refused_wide :
    ({ tcParams with entryBits := 10, layout := Vector.replicate 4 (Vector.replicate 30 1024) } : Params).check =
      some .entryTooWide ∧
    ({ tcParams with chordShiftKc := 256 } : Params).check = some .keycodeTooWide := by decide +kernel

/-- Config.ofParams gives the parameters back or the refusal. -/
theorem test_ofParams : (match Config.ofParams tcParams with
    | .ok c => some c.params.timeWidth
    | .error _ => none) = some 32 ∧ (match Config.ofParams { tcParams with timeWidth := 4 } with
    | .ok _ => none
    | .error r => some r) = some .timeWidthTooSmall := by decide +kernel

/-! ### The operations, one step each (95_test_vectors.md 2.2 to 2.7) -/

/-- O5: at T + 16 the new level is reported; O4: at T + 15 it is not. -/
theorem test_observe_window :
    (after (exec (.observe 5 true) (answering [116] [] (withRecord 5 ⟨100, true, false⟩)))).map
      (fun s => (s.cell 5, s.answers)) = some (⟨100, true, true⟩, [.stable true]) ∧
    (after (exec (.observe 5 true) (answering [115] [] (withRecord 5 ⟨100, true, false⟩)))).map
      (fun s => (s.cell 5, s.answers)) = some (⟨100, true, false⟩, [.stable false]) := by decide +kernel

/-- O14: below the stored time the acceptance is the environment's draw, either way. -/
theorem test_observe_wrap :
    (after (exec (.observe 5 true) { withRecord 5 ⟨0xFFFFFFF0, true, false⟩ with env := ⟨[5], [], [true], 0⟩ })).map
      (fun s => s.cell 5) = some ⟨0xFFFFFFF0, true, true⟩ ∧
    (after (exec (.observe 5 true) { withRecord 5 ⟨0xFFFFFFF0, true, false⟩ with env := ⟨[5], [], [false], 0⟩ })).map
      (fun s => s.cell 5) = some ⟨0xFFFFFFF0, true, false⟩ := by decide +kernel

/-- S1: mask 0 at the first call, the calls in order, the record of switch 3 started. -/
theorem test_scanRow_first :
    (after (exec (.scanRow 0) (answering [100] (lowAt [3]) start))).map (fun s => (s.answers, s.calls, s.cell 3, s.cell 4)) =
      some ([.mask 0#12], [.drive 0 .active, .sense 0, .sense 1, .sense 2, .sense 3, .sense 4, .sense 5, .sense 6, .sense 7,
        .sense 8, .sense 9, .sense 10, .sense 11, .drive 0 .inactive], ⟨100, true, false⟩, ⟨0, false, false⟩) := by
  decide +kernel

/-- S4: a whole row 3 past the window, the unused switch 41 too. -/
theorem test_scanRow_all :
    (after (exec (.scanRow 3) (answering [216] (lowAt (List.range 12))
      { start with debT := Vector.replicate 48 200, debRaw := Vector.replicate 48 true }))).map
      (fun s => (s.answers, s.cell 41, s.cell 35)) =
      some ([.mask 0xFFF#12], ⟨200, true, true⟩, ⟨200, true, false⟩) := by decide +kernel

/-- A6: row 3 writes no letters; every other field of it is set. -/
theorem test_assemble_row3 :
    (after (exec (.assemble 3 0xFFF#12) (diff (keys (List.range 30) .base []) (keys [] .base [])))).map (·.cur) =
      some (keys (List.range 30) .layerRL [.esc, .win1, .win2, .altL, .space, .altR, .winR, .compose, .enter]) := by
  decide +kernel

/-- A9: the row-0 slice and TAB are overwritten with 0, letter 10 stays. -/
theorem test_assemble_overwrites :
    (after (exec (.assemble 0 0#12) (diff (keys (List.range 11) .base [.tab]) (keys [] .base [])))).map (·.cur) =
      some (keys [10] .base []) := by decide +kernel

/-- L2 and L4: a Ctrl macro, and a macro with both flags. -/
theorem test_resolve : (after (exec (.resolve .layerL 5) start)).map (·.answers) = some [.resolved 200 true false] ∧
    (after (exec (.resolve .layerR 7) start)).map (·.answers) = some [.resolved 201 true true] := by decide +kernel

/-- L13 to L16: the entry's bits, the others ignored. -/
theorem test_entry_bits : [0x0004, 0x0104, 0x0304, 0xF004].map (decodeEntry tcParams) =
    [⟨0x04, false, false⟩, ⟨0x04, true, false⟩, ⟨0x04, true, true⟩, ⟨0x04, false, false⟩] := by decide +kernel

/-- L7, L8 and L10. -/
theorem test_resolveSpecial :
    (after (exec (.resolveSpecial .question .base) start)).map (·.answers) = some [.keycode 134] ∧
    (after (exec (.resolveSpecial .question .layerR) start)).map (·.answers) = some [.keycode 135] ∧
    (after (exec (.resolveSpecial .backslash .layerRL) start)).map (·.answers) = some [.keycode 137] := by decide +kernel

/-- E7: Ctrl and Shift around the tap, released in reverse; nothing stays pressed. -/
theorem test_emit_tap :
    (after (exec .emit (diff (keys [7] .layerR []) (keys [] .layerR [])))).map (fun s => (s.trace, s.hostSet)) =
      some ([.press 138, .press 139, .press 201, .hold, .release 201, .release 139, .release 138], []) := by decide +kernel

/-- E10 and E15: letters in order, then modifiers in order; a release after a press. -/
theorem test_emit_order :
    (after (exec .emit (diff (keys [0, 29] .base [.enter, .tab]) (keys [] .base [])))).map (fun s => (s.trace, s.hostSet)) =
      some ([.press 1, .press 30, .press 121, .press 133], [1, 30, 121, 133]) ∧
    (after (exec .emit { diff (keys [0] .base []) (keys [] .base [.shift]) with hostSet := [124] })).map
      (fun s => (s.trace, s.hostSet)) = some ([.press 1, .release 124], [1]) := by decide +kernel

/-- C1: PREV takes CUR, CUR stays. -/
theorem test_commit : (after (exec .commit (diff (keys [2] .base []) (keys [] .base [])))).map (fun s => (s.prev, s.cur)) =
    some (keys [2] .base [], keys [2] .base []) := by decide +kernel

/-- C5, cut to the trace's first and last events, CUR and PHASE: a CYCLE with every column LOW past the window. -/
theorem test_cycle :
    (after (exec .cycle (answering [116, 116, 116, 116] (List.replicate 48 .low)
      { start with debT := Vector.replicate 48 100, debRaw := Vector.replicate 48 true }))).map
      (fun s => (s.trace.take 7, s.trace.length, s.trace.getLast?, s.cur, s.phase)) =
      some ([.press 139, .press 202, .hold, .release 202, .release 139, .press 92, .press 93], 49, some (.press 133),
        keys (List.range 30) .layerRL allModifiers, .scan 0) := by decide +kernel

/-- C6: one sequencer step at EMIT. -/
theorem test_sequencer : (after (step { diff (keys [2] .base []) (keys [] .base []) with phase := .emit })).map
    (fun s => (s.trace, s.phase)) = some ([.press 3], .commit) := by decide +kernel

/-- R220: a direct CYCLE away from SCAN0 is refused. -/
theorem test_cycle_refused : refusal (exec .cycle { start with phase := .emit }) = some (.cycleNotAtScan0 .emit) := by
  decide +kernel

/-- P0, word 9: an illegal request is refused. -/
theorem test_illegal_request : refusal (step (start.withFetchWord 32 0x00000180)) =
    some (.illegalRequest (.switchOutOfRange 48)) := by decide +kernel

/-- P0, word 1: the request placed first is what the next step runs. -/
theorem test_request_runs : (after (step (answering [100] [] (start.withFetchWord 32 0x00000230)))).map
    (fun s => (s.cell 6, s.answers, s.requests)) = some (⟨100, true, false⟩, [.stable false], []) := by decide +kernel

/-! ### The operand forms and the stimulus -/

/-- The row lines' electrical levels (R72). -/
theorem test_levels : electricalLevel .active = .low ∧ electricalLevel .inactive = .high ∧ pressedLevel .low = true ∧
    pressedLevel .high = false := by decide

/-- The map of R73 to R76 at the switches of 95_test_vectors.md 0. -/
theorem test_switch_map : [1, 3, 5, 12, 24, 35, 40, 41, 43].map (fun k : SwitchIdx => switchFunction k) =
    [.letter 0, .letter 2, .letter 4, .modifier .ctrl, .modifier .shift, .modifier .question, .layerKeyL, .unused,
      .layerKeyR] := by decide

/-- The packing of R28: letter 0 is bit 0, the layer bits 31 to 30, TAB bit 32, ENTER bit 46. -/
theorem test_pack : (keys [0, 29] .layerR [.tab, .enter]).pack = 0x4001_A000_0001#47 := by decide +kernel

/-- MODKC (L11, L12). -/
theorem test_modKeycode : modKeycode tcParams .tab .layerRL = 121 ∧ modKeycode tcParams .question .base = 134 ∧
    modKeycode tcParams .backslash .layerL = 137 := by decide +kernel

/-- Line 1 and line 6 of P1 in both syntaxes (R83, R84), and its record. -/
theorem test_stimulus_lines :
    (readStimulusLine "CYCLE t=100 P=000000000008 ; first").map expandLine = some [⟨100, 100, 100, 100, 8#48⟩] ∧
    (readStimulusLine "KEYS t=100 (0,3)").map expandLine = some [⟨100, 100, 100, 100, 8#48⟩] ∧
    (readStimulusLine "IDLE t=130").map expandLine = some [⟨130, 130, 130, 130, 0#48⟩] ∧
    lineRecord 32 ⟨0x64, 0x64, 0x64, 0x64, 8#48⟩ = 0x00000064_00000064_00000064_00000064_000000000008#176 := by
  decide +kernel

/-- P7's per-row readings; REPEAT with STEP; an ill-formed line, a switch out of range and a short snapshot are none. -/
theorem test_stimulus_text :
    readStimulusLine "CYCLE t=100,105,110,115 P=010000000008" = some (.cycle ⟨100, 105, 110, 115, 0x010000000008#48⟩) ∧
    (readStimulusLine "REPEAT 2 IDLE t=100 STEP 5").map expandLine =
      some [⟨100, 100, 100, 100, 0#48⟩, ⟨105, 105, 105, 105, 0#48⟩] ∧
    readStimulusLine "KEYS t=5 (0,3),(3,11)" = some (.keys 5 [(0, 3), (3, 11)]) ∧ readStimulusLine "CYCLE t=100" = none ∧
    readStimulusLine "KEYS t=5 (4,0)" = none ∧ readStimulusLine "CYCLE t=1 P=08" = none := by decide +kernel

/-- The model's own choices in the text (log 14; log 27 for a REPEAT that is not legal): which REPEAT a STEP belongs to, spaces around a KEYS item but none inside
it, small digits, and lines that hold nothing. -/
theorem test_stimulus_choices :
    readStimulusLine "REPEAT 2 REPEAT 3 IDLE t=0 STEP 5" = some (.repeatedStep 2 (.repeated 3 (.idle 0)) 5) ∧
    readStimulusLine "REPEAT 2 REPEAT 3 IDLE t=0 STEP 5 STEP 20" = some (.repeatedStep 2 (.repeatedStep 3 (.idle 0) 5) 20) ∧
    readStimulusLine "KEYS t=5 (0,3) , (3,11) " = some (.keys 5 [(0, 3), (3, 11)]) ∧
    readStimulusLine "KEYS t=5 (0,1 1)" = none ∧
    readStimulusLine "CYCLE t=1 P=00000000000a" = readStimulusLine "CYCLE t=1 P=00000000000A" ∧
    readStimulusLine "REPEAT 2 CYCLE t=0,1,2,3 P=000000000000" = some (.repeated 2 (.cycle ⟨0, 1, 2, 3, 0⟩)) ∧
    readStimulusLine "; nothing" = none ∧ readStimulus "IDLE t=1\n\n; nothing\nIDLE t=2" = some [.idle 1, .idle 2] ∧
    readStimulus "IDLE t=1\nIDLE" = none := by decide +kernel

/-! ### A witness for every statement that has hypotheses -/

theorem test_witness_DecodedWordIsItsEncoding : decodeWord 0x00000228#32 = .ok (.observe 5 true) := by decide

theorem test_witness_DecoderAcceptsExactlyLegalWords : (⟨"EMIT", 0xFFFFFFFF#32, 5#32⟩ : OpcodeRow) ∈ opcodeTable ∧
    (⟨"EMIT", 0xFFFFFFFF#32, 5#32⟩ : OpcodeRow).matchesWord 5#32 = true := by decide

theorem test_witness_IllegalWordsRefusedByName : ((⟨"CYCLE", 0xFFFFFFFF#32, 7#32⟩ : OpcodeRow) ∈ opcodeTable ∧
    0x0000000F#32 &&& 7#32 = 7#32 ∧ (⟨"CYCLE", 0xFFFFFFFF#32, 7#32⟩ : OpcodeRow).matchesWord 0x0000000F#32 = false) ∧
    (48 ≤ 48 ∧ 48 < 64) ∧ (48 ≤ 63 ∧ 63 < 64) ∧ (30 ≤ 30 ∧ 30 < 32) ∧ (30 ≤ 31 ∧ 31 < 32) := by decide

theorem test_witness_StimulusRecordRoundTrip :
    (StimulusLine.cycle ⟨0, 100, 2 ^ 32 - 1, 2 ^ 32 - 1, 8#48⟩).wellFormed 32 = true := by decide +kernel

theorem test_witness_StepRunsTheDecodedRequest : (start.withFetchWord 32 5).requests = [5#32] ∧ decodeWord 5#32 = .ok .emit ∧
    decodeWord 13#32 = .error (.mustBeZero "EMIT") := ⟨by decide, by decide, by decide⟩

theorem test_witness_SequencerRunsPhaseOperation : start.requests = [] ∧ start.phase = .scan 0 ∧
    (start.setPhase (.scan 3)).phase = .scan 3 ∧ (start.setPhase .emit).phase = .emit ∧
    (start.setPhase .commit).phase = .commit := by decide

theorem test_witness_CycleEqualsSixSequencerSteps : start.requests = [] ∧ start.phase = .scan 0 := by decide

theorem test_witness_DirectCycleOnlyAtScan0 : start.phase = .scan 0 ∧ (start.setPhase (.scan 1)).phase ≠ .scan 0 ∧
    (start.setPhase .commit).phase ≠ .scan 0 := by decide

theorem test_witness_DirectRequestsIgnorePhase : Instr.emit ≠ .cycle := by decide

theorem test_witness_DebounceWindowIsStrict : true ≠ start.debRaw[(5 : SwitchIdx)] ∧
    (answering [100, 115, 116] [] start).env.readings = 100 :: [115, 116] ++ [] ∧ [100, 115, 116].Pairwise (· ≤ ·) ∧
    ∀ n ∈ [100, 115, 116], n < 2 ^ start.config.params.timeWidth := by decide +kernel

theorem test_witness_ShortPulsesAreNeverReported : start.debRaw[(5 : SwitchIdx)] = false ∧
    start.debStable[(5 : SwitchIdx)] = false ∧
    (start.debT[(5 : SwitchIdx)] :: [(true, 100), (true, 115), (false, 116), (false, 140)].map (·.2)).Pairwise (· ≤ ·) ∧
    (∀ o ∈ [(true, 100), (true, 115), (false, 116), (false, 140)], o.2 < 2 ^ start.config.params.timeWidth) ∧
    ShortPulses false none [(true, 100), (true, 115), (false, 116), (false, 140)] :=
  ⟨by decide, by decide, by decide, by decide +kernel, by simp [ShortPulses]⟩

theorem test_witness_AcceptedLevelIsReturnedAgain : (withRecord 5 ⟨100, true, true⟩).debRaw[(5 : SwitchIdx)] = true ∧
    (withRecord 5 ⟨100, true, true⟩).debStable[(5 : SwitchIdx)] = true ∧
    (withRecord 5 ⟨100, true, true⟩).debT[(5 : SwitchIdx)] ≤ 100 % 2 ^ start.config.params.timeWidth := by decide +kernel

theorem test_witness_ChangeIsNeverAcceptedAtOnce : true ≠ start.debRaw[(5 : SwitchIdx)] ∧
    (withRecord 5 ⟨100, true, false⟩).debStable[(5 : SwitchIdx)] = false ∧
    (after (exec (.observe 5 true) (answering [116] [] (withRecord 5 ⟨100, true, false⟩)))).map
      (fun u => u.debStable[(5 : SwitchIdx)]) = some true := by decide +kernel

theorem test_witness_ObserveDependsOnItsSwitchAlone : start.config = (withRecord 6 ⟨1, true, true⟩).config ∧
    start.env = (withRecord 6 ⟨1, true, true⟩).env ∧ start.cell 5 = (withRecord 6 ⟨1, true, true⟩).cell 5 ∧
    (6 : SwitchIdx) ≠ 5 := by decide +kernel

theorem test_witness_WrapAcceptanceIsADraw : (withRecord 5 ⟨0xFFFFFFF0, true, false⟩).debRaw[(5 : SwitchIdx)] = true ∧
    5 % 2 ^ start.config.params.timeWidth < (withRecord 5 ⟨0xFFFFFFF0, true, false⟩).debT[(5 : SwitchIdx)] := by
  decide +kernel

theorem test_witness_ScanRowResult : (answering [100] (lowAt [3]) start).env.levels =
    (Vector.ofFn fun c : Fin 12 => if c = 3 then LineLevel.low else .high).toList ++ [] := by decide +kernel

theorem test_witness_ScanRowDrivesItsLineOnly : start.LinesInactive ∧ 1 ≤ 1 ∧ 1 ≤ 13 ∧ 13 ≤ 13 :=
  ⟨by unfold State.LinesInactive; decide, by decide⟩

theorem test_witness_ScanRowLeavesTheRest : (1 : RowIdx) ≠ 0 ∧ (12 : SwitchIdx).val / 12 ≠ (0 : RowIdx).val := by decide

theorem test_witness_AssembleLeavesTheRest : (10 : LetterIdx).val / 10 ≠ (0 : RowIdx).val ∧ (0 : RowIdx) ≠ 3 ∧
    (1 : RowIdx) ≠ 0 ∧ (0 : RowIdx) ≠ 1 ∧ (0 : RowIdx) ≠ 2 ∧ 6 ≤ (6 : Fin 15).val ∧ 6 ≤ (14 : Fin 15).val := by decide

theorem test_witness_AssembleOverwrites : (47 : SwitchIdx).val / 12 = (3 : RowIdx).val := by decide

theorem test_witness_SpecialKeysAreRemappedOffBase : Layer.layerL ≠ .base ∧ Layer.layerRL ≠ .base := by decide

theorem test_witness_OrdinaryLetterEdgeIsOneEvent : OnlyLetterDiffers (diff (keys [2] .base []) (keys [] .base [])) 2 ∧
    curCtrl (diff (keys [2] .base []) (keys [] .base [])) 2 = false ∧
    curShift (diff (keys [2] .base []) (keys [] .base [])) 2 = false := by unfold OnlyLetterDiffers; decide +kernel

theorem test_witness_MacroLetterEdgeIsATap : OnlyLetterDiffers (diff (keys [7] .layerR []) (keys [] .layerR [])) 7 ∧
    curCtrl (diff (keys [7] .layerR []) (keys [] .layerR [])) 7 = true ∧
    curShift (diff (keys [0] .layerRL []) (keys [] .layerRL [])) 0 = true := by unfold OnlyLetterDiffers; decide +kernel

theorem test_witness_ModifierEdgeIsOneEvent : ∀ n : Modifier, n = .question →
    OnlyModifierDiffers (diff (keys [] .layerR [.question]) (keys [] .base [])) n := by
  rintro n rfl
  refine ⟨by decide +kernel, fun n hn => ?_, by decide +kernel⟩
  cases n <;> first | exact absurd rfl hn | decide +kernel

theorem test_witness_LayerToggleEmitsNothing :
    (diff (keys [3] .layerRL []) (keys [3] .base [])).cur.letters = (diff (keys [3] .layerRL []) (keys [3] .base [])).prev.letters ∧
    (diff (keys [3] .layerRL []) (keys [3] .base [])).cur.modifiers =
      (diff (keys [3] .layerRL []) (keys [3] .base [])).prev.modifiers := by decide +kernel

theorem test_witness_MacroTapsOnBothEdges : OnlyLetterDiffers (diff (keys [5] .layerL []) (keys [] .layerL [])) 5 ∧
    curCtrl (diff (keys [5] .layerL []) (keys [] .layerL [])) 5 = true ∧
    OnlyLetterDiffers (diff (keys [] .layerL []) (keys [5] .layerL [])) 5 ∧
    curCtrl (diff (keys [] .layerL []) (keys [5] .layerL [])) 5 = true := by unfold OnlyLetterDiffers; decide +kernel

theorem test_witness_MacroTapLeavesNothingPressed : OnlyLetterDiffers (diff (keys [0] .layerRL []) (keys [] .layerRL [])) 0 ∧
    curShift (diff (keys [0] .layerRL []) (keys [] .layerRL [])) 0 = true := by unfold OnlyLetterDiffers; decide +kernel

/-- P6: letter 2 pressed under Base, released under L. -/
theorem test_witness_LayerChangeLeavesKeycodePressed :
    OnlyLetterDiffers (diff (keys [2] .base []) (keys [] .base [])) 2 ∧
    (diff (keys [2] .base []) (keys [] .base [])).cur.letters[(2 : LetterIdx)] = true ∧
    curCtrl (diff (keys [2] .base []) (keys [] .base [])) 2 = false ∧
    curShift (diff (keys [2] .base []) (keys [] .base [])) 2 = false ∧
    OnlyLetterDiffers (diff (keys [] .layerL []) (keys [2] .base [])) 2 ∧
    curCtrl (diff (keys [] .layerL []) (keys [2] .base [])) 2 = false ∧
    curShift (diff (keys [] .layerL []) (keys [2] .base [])) 2 = false ∧
    curKeycode (diff (keys [] .layerL []) (keys [2] .base [])) 2 ≠ curKeycode (diff (keys [2] .base []) (keys [] .base [])) 2 := by
  unfold OnlyLetterDiffers; decide +kernel

/-- P3: the question-key pressed under Base or L and released under Base or R: both directions, and no change to or from Base. -/
theorem test_witness_SpecialKeyAcrossLayerChange :
    (∀ l l' : Layer, l = .base ∨ l = .layerL → l' = .base ∨ l' = .layerR →
      OnlyModifierDiffers (diff (keys [] l [.question]) (keys [] l [])) .question ∧
      (diff (keys [] l [.question]) (keys [] l [])).cur.modifier .question = true ∧
      OnlyModifierDiffers (diff (keys [] l' []) (keys [] l [.question])) .question) := by
  rintro l l' (rfl | rfl) (rfl | rfl) <;>
    refine ⟨⟨by decide +kernel, fun n hn => ?_, by decide +kernel⟩, by decide +kernel,
      ⟨by decide +kernel, fun n hn => ?_, by decide +kernel⟩⟩ <;>
    cases n <;> first | exact absurd rfl hn | decide +kernel

theorem test_witness_EmittedKeycodesFit : Event.press 3 ∈ emitted (diff (keys [2] .base []) (keys [] .base [])) ∧
    3 ∈ eventKeycodes (.press 3) := by decide +kernel

theorem test_witness_HostSetIsTheSinksAlone : (after (step start)).isSome = true ∧
    (after (step { diff (keys [2] .base []) (keys [] .base []) with phase := .emit })).map (·.hostSet) = some [3] :=
  ⟨by rfl, by decide +kernel⟩

theorem test_witness_CycleResult : start.phase = .scan 0 ∧ start.LinesInactive := ⟨rfl, by unfold State.LinesInactive; decide⟩

theorem test_witness_StimulusLineDrivesOneCycle : start.phase = .scan 0 ∧ start.env.readings = [] ∧ start.env.levels = [] := by
  decide

theorem test_witness_CycleCallOrder : start.phase = .scan 0 := by decide

/-- A state of the running loop with the record of switch 3 started at 100. -/
theorem test_witness_DebounceLatencyInTheLoop : (withRecord 3 ⟨100, true, false⟩).LoopInv ∧
    (withRecord 3 ⟨100, true, false⟩).phase = .scan 0 ∧ (withRecord 3 ⟨100, true, false⟩).env.readings = [] ∧
    (withRecord 3 ⟨100, true, false⟩).env.levels = [] ∧ (3 : SwitchIdx) ≠ 41 ∧
    (∀ r, lineReading ⟨116, 116, 116, 116, 8#48⟩ r < 2 ^ start.config.params.timeWidth) ∧
    ((0#48).getLsbD 3 ≠ (withRecord 3 ⟨100, true, false⟩).debRaw[(3 : SwitchIdx)]) ∧
    ((8#48).getLsbD 3 = (withRecord 3 ⟨100, true, false⟩).debRaw[(3 : SwitchIdx)]) ∧
    (withRecord 3 ⟨100, true, false⟩).debT[(3 : SwitchIdx)] + 15 < lineReading ⟨116, 116, 116, 116, 8#48⟩ (switchRow 3) ∧
    (withRecord 3 ⟨100, true, false⟩).debT[(3 : SwitchIdx)] ≤ lineReading ⟨115, 115, 115, 115, 8#48⟩ (switchRow 3) ∧
    lineReading ⟨115, 115, 115, 115, 8#48⟩ (switchRow 3) ≤ (withRecord 3 ⟨100, true, false⟩).debT[(3 : SwitchIdx)] + 15 := by
  refine ⟨⟨by decide, ?_, fun _ => by decide⟩, by decide +kernel⟩
  unfold State.CurMirrorsStable
  decide +kernel

theorem test_witness_EveryStepKeepsTheInvariant : State.reset.HostFollowsTrace ∧ State.reset.LinesFollowCalls ∧
    State.reset.LinesInactive ∧ hostSetWf State.reset.hostSet ∧ State.reset.TimesFit ∧ (after (step State.reset)).isSome = true :=
  ⟨rfl, rfl, by unfold State.LinesInactive; decide, by decide, fun k => by simp [State.reset], rfl⟩

theorem test_witness_EveryLoopStepKeepsTheLoopInvariant : start.requests = [] ∧ start.CurMirrorsStable ∧
    start.prev = start.cur := ⟨rfl, by unfold State.CurMirrorsStable; decide +kernel, rfl⟩

theorem test_witness_ConfigurationNeverChanges : (after (exec .emit start)).isSome = true ∧ (after (step start)).isSome = true :=
  ⟨by decide +kernel, rfl⟩

/-- Every clause of OnlyTheirOperationsWriteTheState has an operation that writes its part. -/
theorem test_witness_OnlyTheirOperationsWriteTheState :
    (after (exec .commit (diff (keys [2] .base []) (keys [] .base [])))).map (fun u => decide (u.prev = keys [] .base [])) =
      some false ∧
    (after (exec (.assemble 0 8#12) start)).map (fun u => decide (u.cur = start.cur)) = some false ∧
    (after (exec (.observe 5 true) (answering [100] [] start))).map
      (fun u => (decide (u.debT = start.debT), decide (u.env.readings = [100]), decide (u.answers = []))) =
      some (false, false, false) ∧
    (after (exec (.scanRow 0) (answering [100] (lowAt []) { start with rowLine := Vector.replicate 4 .active }))).map
      (fun u => (decide (u.rowLine = Vector.replicate 4 .active), decide (u.calls = []))) = some (false, false) ∧
    (after (exec .emit (diff (keys [2] .base []) (keys [] .base [])))).map
      (fun u => (decide (u.calls = []), decide (u.hostSet = []), decide (u.trace = []))) = some (false, false, false) := by
  decide +kernel

theorem test_witness_PhaseAdvancesInItsOrder : start.requests = [] ∧ (after (step start)).isSome = true ∧
    (start.withFetchWord 32 5).requests ≠ [] ∧ (after (step (start.withFetchWord 32 5))).isSome = true :=
  ⟨rfl, rfl, by decide, by decide +kernel⟩

end Sys2Proof.Tests
end

section
/-! PROOFS. The family 10_state.md: the invariants at reset and along every step, what each operation leaves unchanged, the
phases, and the packed view of a KeyboardState. -/

namespace Sys2Proof.Machine

open Sys2Proof.Claims

/-! ### What the sequencer, CYCLE and SCAN_ROW can do -/

/-- Everything the sequencer's step can do: the phase's operation, then the phase's successor (45_scan_cycle.md R215). -/
theorem State.sequencerStep_cases (s : State) :
    (∃ r, s.phase = .scan r ∧ s.sequencerStep = (s.scanAssemble r).setPhase (nextPhase (.scan r))) ∨
    (s.phase = .emit ∧ s.sequencerStep = s.emit.setPhase .commit) ∨
    (s.phase = .commit ∧ s.sequencerStep = s.commit.setPhase (.scan 0)) := by
  unfold State.sequencerStep
  cases s.phase with
  | scan r => exact .inl ⟨r, rfl, rfl⟩
  | emit => exact .inr (.inl ⟨rfl, rfl⟩)
  | commit => exact .inr (.inr ⟨rfl, rfl⟩)

/-- One row of the cycle leaves that row scanned and assembled, and every other row as it was. -/
theorem State.scanAssemble_rowsScanned (r : RowIdx) (s : State) :
    ∃ now raw accept, RowsScanned [r] s (s.scanAssemble r) now raw accept :=
  State.scanRows_spec [r] (List.nodup_singleton r) s

/-- CYCLE scans its four rows and then runs EMIT and COMMIT, ending at SCAN0 (45_scan_cycle.md R210). -/
theorem State.cycle_spec (s : State) :
    ∃ t now raw accept, s.cycle = (t.emit.commit).setPhase (.scan 0) ∧
      RowsScanned (List.finRange 4) s t now raw accept := by
  obtain ⟨now, raw, accept, h⟩ := State.scanRows_spec (List.finRange 4) (List.nodup_finRange 4) s
  exact ⟨_, now, raw, accept, s.cycle_rows, h⟩

/-- Everything SCAN_ROW can do, from its result. -/
theorem State.rowScanned_of_scanRow {r : RowIdx} {now : Nat} {s u : State} {mask : Mask} (h : s.scanRow r now = (mask, u)) :
    ∃ raw accept, RowScanned r now s mask u raw accept := by
  obtain ⟨mask', u', raw, accept, h', hspec⟩ := s.scanRow_spec r now
  obtain ⟨rfl, rfl⟩ := Prod.mk.inj (h'.symm.trans h)
  exact ⟨raw, accept, hspec⟩

/-! ### What leaves the output trace unchanged -/

@[simp] theorem State.trace_setEnv (e : Env) (s : State) : (s.setEnv e).trace = s.trace := rfl
@[simp] theorem State.trace_setCur (k : KeyboardState) (s : State) : (s.setCur k).trace = s.trace := rfl
@[simp] theorem State.trace_setPrev (k : KeyboardState) (s : State) : (s.setPrev k).trace = s.trace := rfl
@[simp] theorem State.trace_reply (a : Answer) (s : State) : (s.reply a).trace = s.trace := rfl

/-! ### What EMIT leaves unchanged -/

@[simp] theorem State.emit_config (s : State) : s.emit.config = s.config := by rw [State.emit_eq]
@[simp] theorem State.emit_debT (s : State) : s.emit.debT = s.debT := by rw [State.emit_eq]
@[simp] theorem State.emit_debRaw (s : State) : s.emit.debRaw = s.debRaw := by rw [State.emit_eq]
@[simp] theorem State.emit_debStable (s : State) : s.emit.debStable = s.debStable := by rw [State.emit_eq]
@[simp] theorem State.emit_cur (s : State) : s.emit.cur = s.cur := by rw [State.emit_eq]
@[simp] theorem State.emit_prev (s : State) : s.emit.prev = s.prev := by rw [State.emit_eq]
@[simp] theorem State.emit_rowLine (s : State) : s.emit.rowLine = s.rowLine := by rw [State.emit_eq]
@[simp] theorem State.emit_phase (s : State) : s.emit.phase = s.phase := by rw [State.emit_eq]
@[simp] theorem State.emit_requests (s : State) : s.emit.requests = s.requests := by rw [State.emit_eq]
@[simp] theorem State.emit_env (s : State) : s.emit.env = s.env := by rw [State.emit_eq]
@[simp] theorem State.emit_answers (s : State) : s.emit.answers = s.answers := by rw [State.emit_eq]

/-! ### What OBSERVE leaves unchanged -/

/-- What OBSERVE leaves unchanged: everything but the debounce record, the environment and the answers. -/
structure OnlyRecordsChanged (s u : State) : Prop where
  config : u.config = s.config
  cur : u.cur = s.cur
  prev : u.prev = s.prev
  rowLine : u.rowLine = s.rowLine
  phase : u.phase = s.phase
  hostSet : u.hostSet = s.hostSet
  calls : u.calls = s.calls
  requests : u.requests = s.requests

theorem OnlyRecordsChanged.trace {s u : State} (h : OnlyRecordsChanged s u) : u.trace = s.trace := by
  rw [State.trace, h.calls, State.trace]

theorem State.observe_frame {k : SwitchIdx} {raw b : Bool} {now : Nat} {s u : State} (h : s.observe k raw now = (b, u)) :
    OnlyRecordsChanged s u := by
  obtain ⟨a, e, ho, -⟩ := s.observe_spec k raw now
  obtain ⟨-, rfl⟩ := Prod.mk.inj (ho.symm.trans h)
  constructor <;> rfl

/-! ### What a longer record of calls makes of the row lines and HOSTSET -/

theorem linesAfter_append (a b : List Call) (lines : Vector RowLevel 4) :
    linesAfter (a ++ b) lines = linesAfter b (linesAfter a lines) := List.foldl_append

theorem hostAfter_append (a b : List Event) :
    hostAfter (a ++ b) = b.foldl (fun h e => hostAfterEvent e h) (hostAfter a) := List.foldl_append

theorem State.trace_of_calls {s u : State} {calls : List Call} (h : u.calls = s.calls ++ calls) :
    u.trace = s.trace ++ calls.filterMap Call.toEvent := by
  rw [State.trace, h, List.filterMap_append, State.trace]

/-- Column reads drive no row line. -/
theorem linesAfter_sense (cols : List ColIdx) (lines : Vector RowLevel 4) :
    linesAfter (cols.map Call.sense) lines = lines := by
  induction cols with
  | nil => rfl
  | cons c rest ih => exact ih

/-- Events drive no row line. -/
theorem linesAfter_event (events : List Event) (lines : Vector RowLevel 4) :
    linesAfter (events.map Call.event) lines = lines := by
  induction events with
  | nil => rfl
  | cons e rest ih => exact ih

/-! ### The calls and records of one row scan -/

/-- The calls of SCAN_ROW(r): the line is driven ACTIVE and back around the column reads (41_matrix_sampler.md R121). -/
def rowCalls (r : RowIdx) : List Call := [.drive r .active] ++ (List.finRange 12).map Call.sense ++ [.drive r .inactive]

/-- The row line ends INACTIVE whatever it was. -/
theorem linesAfter_rowCalls (r : RowIdx) (lines : Vector RowLevel 4) :
    linesAfter (rowCalls r) lines = lines.set r.val .inactive r.isLt := by
  rw [rowCalls, linesAfter_append, linesAfter_append, linesAfter_sense]
  simp [linesAfter, linesAfterCall]

theorem filterMap_toEvent_rowCalls (r : RowIdx) : (rowCalls r).filterMap Call.toEvent = [] := by
  have hsense : (Call.toEvent ∘ Call.sense) = fun _ => none := rfl
  rw [rowCalls, List.filterMap_append, List.filterMap_append, List.filterMap_map, hsense, List.filterMap_none]
  rfl

/-- The stored time after a call of the gate is the old one or `now`, so it stays below any bound on both. -/
theorem gate_time_lt {c : DebCell} {now bound : Nat} (hc : c.time < bound) (hn : now < bound) (raw accept : Bool) :
    (gate c raw now accept).time < bound := by
  rw [gate_time]
  rcases noteRaw_time c raw now with h | h <;> rwa [h]

section RowScan

variable {r : RowIdx} {now : Nat} {s u : State} {mask : Mask} {raw accept : ColIdx → Bool}

theorem RowScanned.calls_eq (h : RowScanned r now s mask u raw accept) : u.calls = s.calls ++ rowCalls r := by
  simp [h.calls, rowCalls]

/-- A row scan puts no event in the output trace. -/
theorem RowScanned.trace (h : RowScanned r now s mask u raw accept) : u.trace = s.trace := by
  rw [State.trace_of_calls h.calls_eq, filterMap_toEvent_rowCalls, List.append_nil]

/-- A row scan keeps the stored times TIME_WIDTH-bit values (10_state.md R29). -/
theorem RowScanned.timesFit (h : RowScanned r now s mask u raw accept) (hnow : now < 2 ^ s.config.params.timeWidth)
    (hs : s.TimesFit) : u.TimesFit := by
  intro k
  rw [h.config]
  change (u.cell k).time < _
  by_cases hk : switchRow k = r
  · have hsc := h.scanned (switchCol k)
    rw [← hk, switchOf_row_col] at hsc
    rw [hsc]
    exact gate_time_lt (hs k) hnow _ _
  · rw [h.others k hk]
    exact hs k

/-- A row scan leaves the lines INACTIVE when they were. -/
theorem RowScanned.linesInactive (h : RowScanned r now s mask u raw accept) (hs : s.LinesInactive) : u.LinesInactive := by
  intro r'
  have hr' := hs r'
  simp only [Fin.getElem_fin] at hr' ⊢
  rw [h.rowLine, Vector.getElem_set]
  split
  · rfl
  · exact hr'

end RowScan

/-! ### Each operation keeps the machine's invariant -/

/-- Fields that the invariant does not speak of may take any value. -/
theorem State.Inv.of_frame {s u : State} (h : s.Inv) (hconfig : u.config = s.config) (hdebT : u.debT = s.debT)
    (hrow : u.rowLine = s.rowLine) (hhost : u.hostSet = s.hostSet) (hcalls : u.calls = s.calls) : u.Inv where
  linesInactive := by rw [State.LinesInactive, hrow]; exact h.linesInactive
  timesFit := by rw [State.TimesFit, hconfig, hdebT]; exact h.timesFit
  hostSetSorted := by rw [hhost]; exact h.hostSetSorted
  hostFollowsTrace := by rw [State.HostFollowsTrace, State.trace, hhost, hcalls]; exact h.hostFollowsTrace
  linesFollowCalls := by rw [State.LinesFollowCalls, hrow, hcalls]; exact h.linesFollowCalls

theorem State.Inv.setCur {s : State} (h : s.Inv) (ks : KeyboardState) : (s.setCur ks).Inv := h.of_frame rfl rfl rfl rfl rfl
theorem State.Inv.setPrev {s : State} (h : s.Inv) (ks : KeyboardState) : (s.setPrev ks).Inv := h.of_frame rfl rfl rfl rfl rfl
theorem State.Inv.setPhase {s : State} (h : s.Inv) (p : Phase) : (s.setPhase p).Inv := h.of_frame rfl rfl rfl rfl rfl
theorem State.Inv.setRequests {s : State} (h : s.Inv) (r : List ReqWord) : (s.setRequests r).Inv :=
  h.of_frame rfl rfl rfl rfl rfl
theorem State.Inv.setEnv {s : State} (h : s.Inv) (e : Env) : (s.setEnv e).Inv := h.of_frame rfl rfl rfl rfl rfl
theorem State.Inv.reply {s : State} (h : s.Inv) (a : Answer) : (s.reply a).Inv := h.of_frame rfl rfl rfl rfl rfl

/-- `Now()` drives no line and emits no event. -/
theorem State.Inv.addCall_now {s : State} (h : s.Inv) : (s.addCall .now).Inv where
  linesInactive := h.linesInactive
  timesFit := h.timesFit
  hostSetSorted := h.hostSetSorted
  hostFollowsTrace := by
    rw [State.HostFollowsTrace, State.trace_of_calls (State.addCall_calls _ _)]
    exact (List.append_nil s.trace).symm ▸ h.hostFollowsTrace
  linesFollowCalls := by
    rw [State.LinesFollowCalls, State.addCall_calls, linesAfter_append, ← h.linesFollowCalls]
    rfl

/-- SCAN_ROW keeps the invariant. -/
theorem RowScanned.inv {r : RowIdx} {now : Nat} {s u : State} {mask : Mask} {raw accept : ColIdx → Bool}
    (h : RowScanned r now s mask u raw accept) (hnow : now < 2 ^ s.config.params.timeWidth) (hs : s.Inv) : u.Inv where
  linesInactive := h.linesInactive hs.linesInactive
  timesFit := h.timesFit hnow hs.timesFit
  hostSetSorted := by rw [h.hostSet]; exact hs.hostSetSorted
  hostFollowsTrace := by rw [State.HostFollowsTrace, h.hostSet, h.trace]; exact hs.hostFollowsTrace
  linesFollowCalls := by
    rw [State.LinesFollowCalls, h.calls_eq, linesAfter_append, ← hs.linesFollowCalls, linesAfter_rowCalls, h.rowLine]

/-- OBSERVE keeps the invariant. -/
theorem State.Inv.observe {s u : State} {k : SwitchIdx} {raw b : Bool} {now : Nat} (h : s.Inv)
    (hnow : now < 2 ^ s.config.params.timeWidth) (ho : s.observe k raw now = (b, u)) : u.Inv := by
  obtain ⟨a, e, hspec, -⟩ := s.observe_spec k raw now
  obtain ⟨-, rfl⟩ := Prod.mk.inj (hspec.symm.trans ho)
  refine { h with timesFit := fun j => ?_ }
  change (((s.setEnv e).setCell k _).cell j).time < _
  by_cases hj : j = k
  · subst hj
    rw [State.cell_setCell_same]
    exact gate_time_lt (h.timesFit j) hnow _ _
  · rw [State.cell_setCell_other hj]
    exact h.timesFit j

/-- One row of the cycle keeps the invariant. -/
theorem State.Inv.scanAssemble {s : State} (h : s.Inv) (r : RowIdx) : (s.scanAssemble r).Inv := by
  obtain ⟨now, e, mask, s', raw, acc, hsa, hnow, hscan, -⟩ := s.scanAssemble_spec r
  have hs' : s'.Inv := hscan.inv hnow (h.addCall_now.setEnv e)
  rw [hsa]
  exact hs'.setCur _

/-- EMIT keeps the invariant: its events act on HOSTSET as they enter the trace (60_exceptions.md R240). -/
theorem State.Inv.emit {s : State} (h : s.Inv) : s.emit.Inv := by
  rw [State.emit_eq]
  generalize diffEvents s.config.params s.cur s.prev = events
  refine { h with hostSetSorted := hostFold_wf events h.hostSetSorted, hostFollowsTrace := ?_, linesFollowCalls := ?_ }
  · rw [State.HostFollowsTrace, State.trace, filterMap_toEvent_events, hostAfter_append]
    exact congrArg (fun host => events.foldl (fun h e => hostAfterEvent e h) host) h.hostFollowsTrace
  · rw [State.LinesFollowCalls, linesAfter_append, linesAfter_event]
    exact h.linesFollowCalls

/-- COMMIT keeps the invariant. -/
theorem State.Inv.commit {s : State} (h : s.Inv) : s.commit.Inv := h.setPrev s.cur

/-- CYCLE keeps the invariant, one operation after another. -/
theorem State.Inv.cycle {s : State} (h : s.Inv) : s.cycle.Inv := by
  have h4 := (((h.scanAssemble 0).scanAssemble 1).scanAssemble 2).scanAssemble 3
  rw [State.cycle_eq]
  exact h4.emit.commit.setPhase _

/-- Every direct request keeps the invariant. -/
theorem State.Inv.exec {s u : State} {i : Instr} (h : s.Inv) (hx : exec i s = .next u) : u.Inv := by
  obtain ⟨k, raw, now, e, b, v, -, -, hnow, ho, rfl⟩ | ⟨r, now, e, mask, v, -, -, hnow, hsc, rfl⟩ | ⟨r, mask, -, rfl⟩ |
    ⟨a, -, rfl⟩ | ⟨-, rfl⟩ | ⟨-, rfl⟩ | ⟨-, -, rfl⟩ := exec_cases hx
  · exact ((h.setEnv e).observe hnow ho).reply _
  · obtain ⟨raw, accept, hspec⟩ := State.rowScanned_of_scanRow hsc
    exact (hspec.inv hnow (h.setEnv e)).reply _
  · exact h.setCur _
  · exact h.reply _
  · exact h.emit
  · exact h.commit
  · exact h.cycle

/-- The sequencer's step keeps the invariant in every phase. -/
theorem State.Inv.sequencerStep {s : State} (h : s.Inv) : s.sequencerStep.Inv := by
  obtain ⟨r, -, hstep⟩ | ⟨-, hstep⟩ | ⟨-, hstep⟩ := s.sequencerStep_cases
  · exact hstep ▸ (h.scanAssemble r).setPhase _
  · exact hstep ▸ h.emit.setPhase _
  · exact hstep ▸ h.commit.setPhase _

/-- Settles O55: by the operation the step performs, each of which keeps the invariant. -/
theorem everyStepKeepsTheInvariant : Obligations.EveryStepKeepsTheInvariant := by
  intro s u h hstep
  obtain ⟨-, rfl⟩ | ⟨w, rest, i, -, -, hx⟩ := step_cases hstep
  · exact h.sequencerStep
  · exact (h.setRequests rest).exec hx

/-! ### The running loop -/

/-- Scanned rows show their accepted levels in CUR, and the other rows go on showing theirs (10_state.md R26, R31). -/
theorem RowsScanned.curMirrorsStable {rows : List RowIdx} {s u : State} {now : RowIdx → Nat} {raw accept : SwitchIdx → Bool}
    (h : RowsScanned rows s u now raw accept) (hs : s.CurMirrorsStable) : u.CurMirrorsStable := by
  intro k b hb
  rw [h.cur k] at hb
  by_cases hk : switchRow k ∈ rows
  · rw [if_pos hk] at hb
    obtain ⟨_, -, rfl⟩ := Option.map_eq_some_iff.mp hb
    rfl
  · rw [if_neg hk] at hb
    exact (hs k b hb).trans (congrArg DebCell.stable (h.others k hk)).symm

/-- A scan phase is followed by a later one or by EMIT, never by the start of a cycle (10_state.md R34). -/
theorem nextPhase_scan_ne_scan0 : ∀ r : RowIdx, nextPhase (.scan r) ≠ .scan 0 := by decide

theorem State.LoopInv.scanAssemble {s : State} (h : s.LoopInv) (r : RowIdx) :
    ((s.scanAssemble r).setPhase (nextPhase (.scan r))).LoopInv := by
  obtain ⟨now, raw, accept, hscan⟩ := s.scanAssemble_rowsScanned r
  -- what the row did is in `hscan` alone; the operation itself is too large to compare
  generalize s.scanAssemble r = u at hscan ⊢
  refine ⟨hscan.requests.trans h.noRequests, hscan.curMirrorsStable h.curMirrorsStable, fun hp => ?_⟩
  exact absurd hp (nextPhase_scan_ne_scan0 r)

theorem State.LoopInv.emit {s : State} (h : s.LoopInv) : (s.emit.setPhase .commit).LoopInv := by
  rw [State.emit_eq]
  exact ⟨h.noRequests, h.curMirrorsStable, fun hp => by cases hp⟩

theorem State.LoopInv.commit {s : State} (h : s.LoopInv) : (s.commit.setPhase (.scan 0)).LoopInv :=
  ⟨h.noRequests, h.curMirrorsStable, fun _ => rfl⟩

/-- Settles O56: the phase names the operation, each operation keeps the invariant. -/
theorem everyLoopStepKeepsTheLoopInvariant : Obligations.EveryLoopStepKeepsTheLoopInvariant := by
  intro s h
  refine ⟨s.sequencerStep, step_noRequest h.noRequests, ?_⟩
  obtain ⟨r, -, hstep⟩ | ⟨-, hstep⟩ | ⟨-, hstep⟩ := s.sequencerStep_cases
  · exact hstep ▸ h.scanAssemble r
  · exact hstep ▸ h.emit
  · exact hstep ▸ h.commit

/-! ### The configuration (10_state.md R37) -/

theorem State.scanAssemble_config (r : RowIdx) (s : State) : (s.scanAssemble r).config = s.config := by
  obtain ⟨now, raw, accept, h⟩ := s.scanAssemble_rowsScanned r
  exact h.config

theorem State.sequencerStep_config (s : State) : s.sequencerStep.config = s.config := by
  obtain ⟨r, -, hstep⟩ | ⟨-, hstep⟩ | ⟨-, hstep⟩ := s.sequencerStep_cases
  · rw [hstep, State.setPhase_config, State.scanAssemble_config]
  · rw [hstep, State.setPhase_config, State.emit_config]
  · rw [hstep, State.setPhase_config, State.commit, State.setPrev_config]

theorem State.cycle_config (s : State) : s.cycle.config = s.config := by
  obtain ⟨t, now, raw, accept, hcycle, h⟩ := s.cycle_spec
  rw [hcycle, State.setPhase_config, State.commit, State.setPrev_config, State.emit_config, h.config]

/-- No direct request writes the configuration. -/
theorem exec_config {i : Instr} {s u : State} (hx : exec i s = .next u) : u.config = s.config := by
  obtain ⟨k, raw, now, e, b, v, -, -, -, ho, rfl⟩ | ⟨r, now, e, mask, v, -, -, -, hsc, rfl⟩ | ⟨r, mask, -, rfl⟩ |
    ⟨a, -, rfl⟩ | ⟨-, rfl⟩ | ⟨-, rfl⟩ | ⟨-, -, rfl⟩ := exec_cases hx
  · rw [State.reply_config, (State.observe_frame ho).config, State.setEnv_config]
  · obtain ⟨raw, accept, h⟩ := State.rowScanned_of_scanRow hsc
    rw [State.reply_config, h.config, State.setEnv_config]
  · rw [State.assemble, State.setCur_config]
  · rw [State.reply_config]
  · rw [State.emit_config]
  · rw [State.commit, State.setPrev_config]
  · rw [State.cycle_config]

/-- Settles O57: by the operation run, each of which leaves the configuration alone. -/
theorem configurationNeverChanges : Obligations.ConfigurationNeverChanges := by
  refine ⟨fun i s u hx => exec_config hx, fun s u hstep => ?_⟩
  obtain ⟨-, rfl⟩ | ⟨w, rest, i, -, -, hx⟩ := step_cases hstep
  · exact s.sequencerStep_config
  · rw [exec_config hx, State.setRequests_config]

/-- Settles O58: each operation's frame, one operation after another. -/
theorem onlyTheirOperationsWriteTheState : Obligations.OnlyTheirOperationsWriteTheState := by
  intro i s u hx
  obtain ⟨k, raw, now, e, b, v, rfl, -, -, ho, rfl⟩ | ⟨r, now, e, mask, v, rfl, -, -, hsc, rfl⟩ | ⟨r, mask, rfl, rfl⟩ |
    ⟨a, hi, rfl⟩ | ⟨rfl, rfl⟩ | ⟨rfl, rfl⟩ | ⟨rfl, hp, rfl⟩ := exec_cases hx
  · have h := State.observe_frame ho
    simp [h.phase, h.requests, h.prev, h.cur, h.rowLine, h.calls, h.hostSet, h.trace]
  · obtain ⟨raw, accept, h⟩ := State.rowScanned_of_scanRow hsc
    simp [h.phase, h.requests, h.prev, h.cur, h.hostSet, h.trace]
  · simp [State.assemble]
  · simp [hi]
  · simp
  · simp [State.commit]
  · obtain ⟨t, now, raw, accept, hcycle, h⟩ := s.cycle_spec
    simp [hcycle, State.commit, hp, h.requests, h.answers]

/-! ### The phases (10_state.md R34) -/

/-- The six phases in their order. -/
def allPhases : List Phase := [.scan 0, .scan 1, .scan 2, .scan 3, .emit, .commit]

theorem mem_allPhases (p : Phase) : p ∈ allPhases := by
  cases p with
  | scan r => revert r; decide
  | emit => decide
  | commit => decide

theorem phase_code_lt (p : Phase) : p.code.toNat < 6 := by
  have hall : ∀ q ∈ allPhases, q.code.toNat < 6 := by decide
  exact hall p (mem_allPhases p)

theorem phase_code_injective (p q : Phase) (h : p.code = q.code) : p = q := by
  have hall : ∀ a ∈ allPhases, ∀ b ∈ allPhases, a.code = b.code → a = b := by decide
  exact hall p (mem_allPhases p) q (mem_allPhases q) h

theorem nextPhase_eq_successor (p : Phase) : nextPhase p = successor p := by
  have hall : ∀ q ∈ allPhases, nextPhase q = successor q := by decide
  exact hall p (mem_allPhases p)

theorem successor_code (p : Phase) : (successor p).code.toNat = (p.code.toNat + 1) % 6 := by
  have hall : ∀ q ∈ allPhases, (successor q).code.toNat = (q.code.toNat + 1) % 6 := by decide
  exact hall p (mem_allPhases p)

/-- No direct request writes PHASE (45_scan_cycle.md R220). -/
theorem exec_phase {i : Instr} {s u : State} (hx : exec i s = .next u) : u.phase = s.phase := by
  obtain ⟨hphase, -⟩ := onlyTheirOperationsWriteTheState i s u hx
  exact hphase

/-- Settles O59: the sequencer takes the successor, a request leaves PHASE as it is. -/
theorem phaseAdvancesInItsOrder : Obligations.PhaseAdvancesInItsOrder := by
  refine ⟨phase_code_lt, phase_code_injective, fun s u hreq hstep => ?_, fun s u hreq hstep => ?_⟩
  · obtain ⟨-, rfl⟩ | ⟨w, rest, i, hcons, -, -⟩ := step_cases hstep
    · have hphase : s.sequencerStep.phase = successor s.phase := nextPhase_eq_successor s.phase
      exact ⟨hphase, hphase ▸ successor_code s.phase⟩
    · simp [hreq] at hcons
  · obtain ⟨hnil, -⟩ | ⟨w, rest, i, -, -, hx⟩ := step_cases hstep
    · exact absurd hnil hreq
    · rw [exec_phase hx, State.setRequests_phase]

/-! ### Reset (10_state.md R38) -/

/-- Settles O53: reading each element of the reset state. -/
theorem resetValues : Obligations.ResetValues := by
  refine ⟨fun k => ?_, fun i => ?_, fun m => ?_, rfl, rfl, fun r => ?_, rfl⟩
  · simp [State.reset]
  · simp [State.reset, KeyboardState.released]
  · simp [State.reset, KeyboardState.released, KeyboardState.modifier]
  · simp [State.reset]

theorem reset_inv : State.reset.Inv where
  linesInactive := by simp [State.LinesInactive, State.reset]
  timesFit := by simp [State.TimesFit, State.reset]
  hostSetSorted := List.Pairwise.nil
  hostFollowsTrace := rfl
  linesFollowCalls := rfl

/-- With everything released no switch's bit is set. -/
theorem fedBy_released {k : SwitchIdx} {b : Bool} (h : KeyboardState.released.fedBy k = some b) : b = false := by
  unfold KeyboardState.fedBy at h
  split at h
  · simpa [KeyboardState.released] using h.symm
  · simpa [KeyboardState.released] using h.symm
  · exact (Option.some.inj h).symm
  · exact (Option.some.inj h).symm
  · cases h

theorem reset_loopInv : State.reset.LoopInv where
  noRequests := rfl
  curMirrorsStable := fun k b h => by simp [State.reset, fedBy_released h]
  prevIsCur := fun _ => rfl

/-- Settles O54: the two invariants at reset, one by one. -/
theorem resetHasInvariants : Obligations.ResetHasInvariants := ⟨reset_inv, reset_loopInv⟩

/-! ### The packed KeyboardState (10_state.md R28) -/

/-- Bit i of a row of booleans as a number is its element i. -/
theorem testBit_bitsNumber (bits : List Bool) (i : Nat) : (bitsNumber bits).testBit i = bits.getD i false := by
  induction bits generalizing i with
  | nil => simp [bitsNumber]
  | cons b rest ih =>
    have hbit : bitsNumber (b :: rest) = Nat.bit b (bitsNumber rest) := by
      cases b <;> simp [bitsNumber, Nat.bit, Nat.add_comm]
    rw [hbit]
    cases i with
    | zero => simp
    | succ i => rw [Nat.testBit_bit_succ, ih, List.getD_cons_succ]

theorem getLsbD_bitsNumber {n : Nat} (bits : Vector Bool n) (i : Fin n) :
    (BitVec.ofNat n (bitsNumber bits.toList)).getLsbD i.val = bits[i] := by
  rw [BitVec.getLsbD_ofNat, testBit_bitsNumber]
  simp

/-- The three parts of a packed KeyboardState, letters lowest. -/
theorem pack_getLsbD (ks : KeyboardState) (i : Nat) :
    ks.pack.getLsbD i =
      if i < 30 then (BitVec.ofNat 30 (bitsNumber ks.letters.toList)).getLsbD i
      else if i - 30 < 2 then (BitVec.ofNat 2 ks.layerSelector.code.val).getLsbD (i - 30)
      else (BitVec.ofNat 15 (bitsNumber ks.modifiers.toList)).getLsbD (i - 30 - 2) := by
  rw [← BitVec.getLsbD_append, ← BitVec.getLsbD_append]
  rfl

theorem pack_letterBit (ks : KeyboardState) (i : LetterIdx) : ks.pack.getLsbD i.val = ks.letters[i] := by
  rw [pack_getLsbD, if_pos i.isLt, getLsbD_bitsNumber]

theorem pack_modifierBit (ks : KeyboardState) (m : Fin 15) : ks.pack.getLsbD (32 + m.val) = ks.modifiers[m] := by
  have hidx : 32 + m.val - 30 - 2 = m.val := by omega
  rw [pack_getLsbD, if_neg (by omega), if_neg (by omega), hidx, getLsbD_bitsNumber]

theorem pack_layerBit0 (ks : KeyboardState) : ks.pack.getLsbD 30 = layerBit0 ks.layerSelector := by
  rw [pack_getLsbD]
  cases ks.layerSelector <;> rfl

theorem pack_layerBit1 (ks : KeyboardState) : ks.pack.getLsbD 31 = layerBit1 ks.layerSelector := by
  rw [pack_getLsbD]
  cases ks.layerSelector <;> rfl

theorem layerOfBits_layerBits (l : Layer) : layerOfBits (layerBit1 l) (layerBit0 l) = l := by cases l <;> rfl

theorem unpack_pack (ks : KeyboardState) : KeyboardState.unpack ks.pack = ks := by
  have hletters : (Vector.ofFn fun i : LetterIdx => ks.pack.getLsbD i.val) = ks.letters := by
    ext i hi
    simpa using pack_letterBit ks ⟨i, hi⟩
  have hmodifiers : (Vector.ofFn fun m : Fin 15 => ks.pack.getLsbD (32 + m.val)) = ks.modifiers := by
    ext m hm
    simpa using pack_modifierBit ks ⟨m, hm⟩
  rw [KeyboardState.unpack, hletters, hmodifiers, pack_layerBit0, pack_layerBit1, layerOfBits_layerBits]

/-- Each of the 47 bits is read by a field of the unpacked KeyboardState. -/
theorem unpack_injective {w w' : BitVec 47} (h : KeyboardState.unpack w = KeyboardState.unpack w') : w = w' := by
  have hletter : ∀ i : LetterIdx, w.getLsbD i.val = w'.getLsbD i.val := fun i => by
    simpa [KeyboardState.unpack] using congrArg (fun ks => ks.letters[i]) h
  have hmodifier : ∀ m : Fin 15, w.getLsbD (32 + m.val) = w'.getLsbD (32 + m.val) := fun m => by
    simpa [KeyboardState.unpack] using congrArg (fun ks => ks.modifiers[m]) h
  have hlayer0 : w.getLsbD 30 = w'.getLsbD 30 := by
    simpa [KeyboardState.unpack] using congrArg (fun ks => layerBit0 ks.layerSelector) h
  have hlayer1 : w.getLsbD 31 = w'.getLsbD 31 := by
    simpa [KeyboardState.unpack] using congrArg (fun ks => layerBit1 ks.layerSelector) h
  refine BitVec.eq_of_getLsbD_eq fun i hi => ?_
  obtain hlt | rfl | rfl | hge : i < 30 ∨ i = 30 ∨ i = 31 ∨ 32 ≤ i := by omega
  · exact hletter ⟨i, hlt⟩
  · exact hlayer0
  · exact hlayer1
  · obtain ⟨m, rfl⟩ := Nat.exists_eq_add_of_le hge
    exact hmodifier ⟨m, by omega⟩

/-- Settles O6: unpacking a packing is exact, and unpacking tells any two words apart. -/
theorem packedKeyboardStateRoundTrip : Obligations.PackedKeyboardStateRoundTrip :=
  ⟨unpack_pack, fun w => unpack_injective (unpack_pack (KeyboardState.unpack w))⟩

end Sys2Proof.Machine
end

section
/-! PROOFS. The family 30_encoding.md: request words and their decoder, stimulus lines, the width of emitted keycodes. -/

namespace Sys2Proof

/-! ### The decoder inverts the encoder (R80, R82) -/

/-- The fields fit the word, so the sum the encoder writes down does not wrap. -/
theorem toNat_encode_observe (s : SwitchIdx) (raw : Bool) :
    (encode (.observe s raw)).toNat = s.val * 8 + raw.toNat * 512 := by
  have hraw := raw.toNat_le
  simp only [encode, BitVec.toNat_ofNat]
  omega

theorem toNat_encode_scanRow (r : RowIdx) : (encode (.scanRow r)).toNat = 1 + r.val * 8 := by
  simp only [encode, BitVec.toNat_ofNat]
  omega

theorem toNat_encode_assemble (r : RowIdx) (mask : Mask) :
    (encode (.assemble r mask)).toNat = 2 + r.val * 8 + mask.toNat * 32 := by
  have hmask := mask.isLt
  simp only [encode, BitVec.toNat_ofNat]
  omega

theorem toNat_encode_resolve (l : Layer) (i : LetterIdx) :
    (encode (.resolve l i)).toNat = 3 + l.code.val * 8 + i.val * 32 := by
  simp only [encode, BitVec.toNat_ofNat]
  omega

theorem SpecialKey.code_lt (key : SpecialKey) : key.code < 2 := by cases key <;> decide

theorem toNat_encode_resolveSpecial (key : SpecialKey) (l : Layer) :
    (encode (.resolveSpecial key l)).toNat = 4 + key.code * 8 + l.code.val * 16 := by
  have hkey := key.code_lt
  simp only [encode, BitVec.toNat_ofNat]
  omega

@[simp] theorem keyOfField_code (key : SpecialKey) : keyOfField key.code = key := by cases key <;> rfl

@[simp] theorem rowOfField_val (r : RowIdx) : rowOfField r.val = r := Fin.ext (Nat.mod_eq_of_lt r.isLt)

theorem decodeWord_encode_observe (s : SwitchIdx) (raw : Bool) :
    decodeWord (encode (.observe s raw)) = .ok (.observe s raw) := by
  have hraw := raw.toNat_le
  have hw := toNat_encode_observe s raw
  generalize encode (.observe s raw) = w at hw ⊢
  have hcode : bitField w 0 3 = 0 := by rw [bitField, hw]; omega
  have hzero : bitField w 10 22 = 0 := by rw [bitField, hw]; omega
  have hs : bitField w 3 6 = s.val := by rw [bitField, hw]; omega
  have hr : bitField w 9 1 = raw.toNat := by rw [bitField, hw]; omega
  simp [decodeWord, decodeObserve, hcode, hzero, hs, hr]

theorem decodeWord_encode_scanRow (r : RowIdx) : decodeWord (encode (.scanRow r)) = .ok (.scanRow r) := by
  have hw := toNat_encode_scanRow r
  generalize encode (.scanRow r) = w at hw ⊢
  have hcode : bitField w 0 3 = 1 := by rw [bitField, hw]; omega
  have hzero : bitField w 5 27 = 0 := by rw [bitField, hw]; omega
  have hr : bitField w 3 2 = r.val := by rw [bitField, hw]; omega
  simp [decodeWord, decodeScanRow, hcode, hzero, hr]

theorem decodeWord_encode_assemble (r : RowIdx) (mask : Mask) :
    decodeWord (encode (.assemble r mask)) = .ok (.assemble r mask) := by
  have hmask := mask.isLt
  have hw := toNat_encode_assemble r mask
  generalize encode (.assemble r mask) = w at hw ⊢
  have hcode : bitField w 0 3 = 2 := by rw [bitField, hw]; omega
  have hzero : bitField w 17 15 = 0 := by rw [bitField, hw]; omega
  have hr : bitField w 3 2 = r.val := by rw [bitField, hw]; omega
  have hm : bitField w 5 12 = mask.toNat := by rw [bitField, hw]; omega
  simp [decodeWord, decodeAssemble, hcode, hzero, hr, hm]

theorem decodeWord_encode_resolve (l : Layer) (i : LetterIdx) :
    decodeWord (encode (.resolve l i)) = .ok (.resolve l i) := by
  have hw := toNat_encode_resolve l i
  generalize encode (.resolve l i) = w at hw ⊢
  have hcode : bitField w 0 3 = 3 := by rw [bitField, hw]; omega
  have hzero : bitField w 10 22 = 0 := by rw [bitField, hw]; omega
  have hl : bitField w 3 2 = l.code.val := by rw [bitField, hw]; omega
  have hi : bitField w 5 5 = i.val := by rw [bitField, hw]; omega
  simp [decodeWord, decodeResolve, hcode, hzero, hl, hi]

theorem decodeWord_encode_resolveSpecial (key : SpecialKey) (l : Layer) :
    decodeWord (encode (.resolveSpecial key l)) = .ok (.resolveSpecial key l) := by
  have hkey := key.code_lt
  have hw := toNat_encode_resolveSpecial key l
  generalize encode (.resolveSpecial key l) = w at hw ⊢
  have hcode : bitField w 0 3 = 4 := by rw [bitField, hw]; omega
  have hzero : bitField w 6 26 = 0 := by rw [bitField, hw]; omega
  have hk : bitField w 3 1 = key.code := by rw [bitField, hw]; omega
  have hl : bitField w 4 2 = l.code.val := by rw [bitField, hw]; omega
  simp [decodeWord, decodeResolveSpecial, hcode, hzero, hk, hl]

theorem decodeWord_encode (i : Instr) : decodeWord (encode i) = .ok i := by
  cases i with
  | observe s raw => exact decodeWord_encode_observe s raw
  | scanRow r => exact decodeWord_encode_scanRow r
  | assemble r mask => exact decodeWord_encode_assemble r mask
  | resolve l j => exact decodeWord_encode_resolve l j
  | resolveSpecial key l => exact decodeWord_encode_resolveSpecial key l
  | emit => rfl
  | commit => rfl
  | cycle => rfl

/-- Settles O1: field by field over the word; the bytes of a word decode as the word does. -/
theorem decodeEncodeRoundTrip : Obligations.DecodeEncodeRoundTrip := by
  refine fun i => ⟨decodeWord_encode i, fun rest => ?_⟩
  rw [decodeBytes_wordBytes, decodeWord_encode]
  rfl

theorem decodeWord_of_encode_eq {i : Instr} {w : ReqWord} (h : encode i = w) : decodeWord w = .ok i :=
  h ▸ decodeWord_encode i

/-! ### Illegal words (R81; log 26) -/

theorem bitField_opCode (w : ReqWord) : bitField w 0 3 = w.toNat % 8 := by simp [bitField]

/-- The field from bit `top` to the end of the word is zero exactly when the word is a number below 2^top. -/
theorem bitField_top_eq_zero_iff {top : Nat} (htop : top ≤ 32) (w : ReqWord) :
    bitField w top (32 - top) = 0 ↔ w.toNat < 2 ^ top := by
  have hfield : w.toNat / 2 ^ top < 2 ^ (32 - top) :=
    Nat.div_lt_of_lt_mul (by rw [← pow_add, Nat.add_sub_cancel' htop]; exact w.isLt)
  rw [bitField, Nat.mod_eq_of_lt hfield, Nat.div_eq_zero_iff_lt (by positivity)]

/-- A row of the table by its fields: its operation code, and the bit `top` from which every bit must be zero. -/
structure RowFields (row : OpcodeRow) (code top : Nat) : Prop where
  code_lt : code < 8
  le_top : 3 ≤ top
  top_le : top ≤ 32
  mask : row.mask = (~~~(BitVec.ofNat 32 (2 ^ top - 1)) ||| 7#32)
  pattern : row.pattern = BitVec.ofNat 32 code
  refuses : ∀ w, bitField w 0 3 = code → bitField w top (32 - top) ≠ 0 →
    decodeWord w = .error (.mustBeZero row.mnemonic)

theorem exists_rowFields {row : OpcodeRow} (h : row ∈ opcodeTable) : ∃ code top, RowFields row code top := by
  simp only [opcodeTable, List.mem_cons, List.not_mem_nil, or_false] at h
  obtain rfl | rfl | rfl | rfl | rfl | rfl | rfl | rfl := h
  · exact ⟨0, 10, by decide, by decide, by decide, by decide, rfl, fun w hc hz => by simp_all [decodeWord, decodeObserve]⟩
  · exact ⟨1, 5, by decide, by decide, by decide, by decide, rfl, fun w hc hz => by simp_all [decodeWord, decodeScanRow]⟩
  · exact ⟨2, 17, by decide, by decide, by decide, by decide, rfl, fun w hc hz => by simp_all [decodeWord, decodeAssemble]⟩
  · exact ⟨3, 10, by decide, by decide, by decide, by decide, rfl, fun w hc hz => by simp_all [decodeWord, decodeResolve]⟩
  · exact ⟨4, 6, by decide, by decide, by decide, by decide, rfl,
      fun w hc hz => by simp_all [decodeWord, decodeResolveSpecial]⟩
  · exact ⟨5, 3, by decide, by decide, by decide, by decide, rfl, fun w hc hz => by simp_all [decodeWord, decodePlain]⟩
  · exact ⟨6, 3, by decide, by decide, by decide, by decide, rfl, fun w hc hz => by simp_all [decodeWord, decodePlain]⟩
  · exact ⟨7, 3, by decide, by decide, by decide, by decide, rfl, fun w hc hz => by simp_all [decodeWord, decodePlain]⟩

theorem RowFields.opCode_iff {row : OpcodeRow} {code top : Nat} (h : RowFields row code top) (w : ReqWord) :
    w &&& 7#32 = row.pattern ↔ w.toNat % 8 = code := by
  rw [h.pattern, and_opCode w code h.code_lt]

theorem RowFields.matchesWord_iff {row : OpcodeRow} {code top : Nat} (h : RowFields row code top) (w : ReqWord) :
    row.matchesWord w = true ↔ w.toNat % 8 = code ∧ w.toNat < 2 ^ top := by
  rw [OpcodeRow.matchesWord, beq_iff_eq, h.mask, h.pattern, matchesRow w code top h.code_lt h.le_top h.top_le]

/-- A word that matches a row has the row's operation code. -/
theorem opCode_of_matchesWord {row : OpcodeRow} {w : ReqWord} (hrow : row ∈ opcodeTable) (h : row.matchesWord w = true) :
    w &&& 7#32 = row.pattern := by
  obtain ⟨code, top, hf⟩ := exists_rowFields hrow
  obtain ⟨hcode, -⟩ := (hf.matchesWord_iff w).mp h
  exact (hf.opCode_iff w).mpr hcode

theorem decodeWord_mustBeZero {w : ReqWord} {row : OpcodeRow} (hrow : row ∈ opcodeTable) (hcode : w &&& 7#32 = row.pattern)
    (hmatch : row.matchesWord w = false) : decodeWord w = .error (.mustBeZero row.mnemonic) := by
  obtain ⟨code, top, hf⟩ := exists_rowFields hrow
  have hc : w.toNat % 8 = code := (hf.opCode_iff w).mp hcode
  refine hf.refuses w ((bitField_opCode w).trans hc) fun hzero => ?_
  have hlt : w.toNat < 2 ^ top := (bitField_top_eq_zero_iff hf.top_le w).mp hzero
  simp [(hf.matchesWord_iff w).mpr ⟨hc, hlt⟩] at hmatch

/-- OBSERVE with a switch field of 48 or more is refused by the field's value. -/
theorem decodeWord_switchOutOfRange {w : ReqWord} (hcode : w.toNat % 8 = 0) (hzero : w.toNat < 1024)
    (hs : 48 ≤ w.toNat / 8 % 64) : decodeWord w = .error (.switchOutOfRange (w.toNat / 8 % 64)) := by
  have hz : bitField w 10 22 = 0 := (bitField_top_eq_zero_iff (top := 10) (by decide) w).mpr hzero
  have hfield : bitField w 3 6 = w.toNat / 8 % 64 := rfl
  simp [decodeWord, bitField_opCode, hcode, decodeObserve, hz, hfield, Nat.not_lt.mpr hs]

/-- RESOLVE with a letter field of 30 or more is refused by the field's value. -/
theorem decodeWord_letterOutOfRange {w : ReqWord} (hcode : w.toNat % 8 = 3) (hzero : w.toNat < 1024)
    (hi : 30 ≤ w.toNat / 32 % 32) : decodeWord w = .error (.letterOutOfRange (w.toNat / 32 % 32)) := by
  have hz : bitField w 10 22 = 0 := (bitField_top_eq_zero_iff (top := 10) (by decide) w).mpr hzero
  have hfield : bitField w 5 5 = w.toNat / 32 % 32 := rfl
  simp [decodeWord, bitField_opCode, hcode, decodeResolve, hz, hfield, Nat.not_lt.mpr hi]

/-- Every operation code is assigned. -/
theorem exists_row_of_opCode (w : ReqWord) : ∃ row ∈ opcodeTable, w &&& 7#32 = row.pattern := by
  have hrows : ∀ code : Fin 8, ∃ row ∈ opcodeTable, row.pattern = BitVec.ofNat 32 code.val := by decide
  obtain ⟨row, hrow, hpattern⟩ := hrows ⟨w.toNat % 8, Nat.mod_lt _ (by decide)⟩
  exact ⟨row, hrow, by rw [hpattern, and_opCode w _ (Nat.mod_lt _ (by decide))]⟩

/-- Settles O4: the must-be-zero field of any row, then the two index fields. -/
theorem illegalWordsRefusedByName : Obligations.IllegalWordsRefusedByName := by
  refine ⟨fun w row hrow hcode hmatch => decodeWord_mustBeZero hrow hcode hmatch, fun s hge hlt raw => ?_,
    fun i hge hlt l => ?_, exists_row_of_opCode⟩
  · have hraw := raw.toNat_le
    have hw : (BitVec.ofNat 32 (s * 8 + raw.toNat * 512)).toNat = s * 8 + raw.toNat * 512 := by
      rw [BitVec.toNat_ofNat]; omega
    have hs : (s * 8 + raw.toNat * 512) / 8 % 64 = s := by omega
    have h := decodeWord_switchOutOfRange (w := BitVec.ofNat 32 (s * 8 + raw.toNat * 512))
    rw [hw, hs] at h
    exact h (by omega) (by omega) hge
  · have hw : (BitVec.ofNat 32 (3 + l.code.val * 8 + i * 32)).toNat = 3 + l.code.val * 8 + i * 32 := by
      rw [BitVec.toNat_ofNat]; omega
    have hi : (3 + l.code.val * 8 + i * 32) / 32 % 32 = i := by omega
    have h := decodeWord_letterOutOfRange (w := BitVec.ofNat 32 (3 + l.code.val * 8 + i * 32))
    rw [hw, hi] at h
    exact h (by omega) (by omega) hge

/-! ### Legal words (R80, R81) -/

theorem exists_bool_toNat {n : Nat} (h : n < 2) : ∃ b : Bool, b.toNat = n := ⟨decide (n = 1), by
  obtain rfl | rfl : n = 0 ∨ n = 1 := by omega
  · rfl
  · rfl⟩

theorem exists_layer_code {n : Nat} (h : n < 4) : ∃ l : Layer, l.code.val = n :=
  ⟨layerOfField n, (code_layerOfField n).trans (Nat.mod_eq_of_lt h)⟩

theorem exists_specialKey_code {n : Nat} (h : n < 2) : ∃ key : SpecialKey, key.code = n := ⟨keyOfField n, code_keyOfField h⟩

/-- The encoder reaches every legal word: its fields, read off the number, are an instruction's. -/
theorem exists_encode_of_legalWord {w : ReqWord} (h : legalWord w = true) : ∃ i, encode i = w := by
  have hof : ∀ i, (encode i).toNat = w.toNat → ∃ i, encode i = w := fun i hi => ⟨i, BitVec.eq_of_toNat_eq hi⟩
  obtain ⟨h8, hlt, hs⟩ | ⟨h8, hlt⟩ | ⟨h8, hlt⟩ | ⟨h8, hlt, hi⟩ | ⟨h8, hlt⟩ | ⟨h8, hlt⟩ | ⟨h8, hlt⟩ | ⟨h8, hlt⟩ :=
    (legalWord_iff w).mp h
  · obtain ⟨raw, hraw⟩ := exists_bool_toNat (n := w.toNat / 512) (by omega)
    refine hof (.observe ⟨w.toNat / 8 % 64, hs⟩ raw) ?_
    rw [toNat_encode_observe, hraw]
    dsimp only
    omega
  · refine hof (.scanRow ⟨w.toNat / 8, by omega⟩) ?_
    rw [toNat_encode_scanRow]
    dsimp only
    omega
  · refine hof (.assemble ⟨w.toNat / 8 % 4, by omega⟩ (BitVec.ofNat 12 (w.toNat / 32))) ?_
    rw [toNat_encode_assemble, BitVec.toNat_ofNat]
    dsimp only
    omega
  · obtain ⟨l, hl⟩ := exists_layer_code (n := w.toNat / 8 % 4) (by omega)
    refine hof (.resolve l ⟨w.toNat / 32 % 32, hi⟩) ?_
    rw [toNat_encode_resolve, hl]
    dsimp only
    omega
  · obtain ⟨key, hkey⟩ := exists_specialKey_code (n := w.toNat / 8 % 2) (by omega)
    obtain ⟨l, hl⟩ := exists_layer_code (n := w.toNat / 16) (by omega)
    refine hof (.resolveSpecial key l) ?_
    rw [toNat_encode_resolveSpecial, hkey, hl]
    omega
  · refine hof .emit ?_
    change 5 = _
    omega
  · refine hof .commit ?_
    change 6 = _
    omega
  · refine hof .cycle ?_
    change 7 = _
    omega

/-- The encoder gives legal words only. -/
theorem legalWord_encode (i : Instr) : legalWord (encode i) = true := by
  cases i with
  | observe s raw => exact Laws.EncodedWordIsLegal.observe s raw
  | scanRow r => exact Laws.EncodedWordIsLegal.scanRow r
  | assemble r mask => exact Laws.EncodedWordIsLegal.assemble r mask
  | resolve l j => exact Laws.EncodedWordIsLegal.resolve l j
  | resolveSpecial key l => exact Laws.EncodedWordIsLegal.resolveSpecial key l
  | emit => exact Laws.EncodedWordIsLegal.emit
  | commit => exact Laws.EncodedWordIsLegal.commit
  | cycle => exact Laws.EncodedWordIsLegal.cycle

theorem observeOutOfRange_iff (w : ReqWord) :
    observeOutOfRange w = true ↔ w.toNat % 8 = 0 ∧ 48 ≤ w.toNat / 8 % 64 := by
  rw [← and_opCode w 0 (by decide)]
  simp [observeOutOfRange, Nat.shiftRight_eq_div_pow]

theorem resolveOutOfRange_iff (w : ReqWord) :
    resolveOutOfRange w = true ↔ w.toNat % 8 = 3 ∧ 30 ≤ w.toNat / 32 % 32 := by
  rw [← and_opCode w 3 (by decide)]
  simp [resolveOutOfRange, Nat.shiftRight_eq_div_pow]

/-- A word that is not legal is refused: for its must-be-zero field where it matches no row, else for its index. -/
theorem decodeWord_refuses_of_not_legal {w : ReqWord} (h : legalWord w = false) : ∃ why, decodeWord w = .error why := by
  obtain ⟨row, hrow, hcode⟩ := exists_row_of_opCode w
  cases hmatch : row.matchesWord w with
  | false => exact ⟨_, decodeWord_mustBeZero hrow hcode hmatch⟩
  | true =>
    have hmatches : opcodeTable.any (fun r => r.matchesWord w) = true := List.any_eq_true.mpr ⟨row, hrow, hmatch⟩
    have hany := (opcodeTable_any w).mp hmatches
    cases hobserve : observeOutOfRange w with
    | true =>
      obtain ⟨h8, hs⟩ := (observeOutOfRange_iff w).mp hobserve
      exact ⟨_, decodeWord_switchOutOfRange h8 (by omega) hs⟩
    | false =>
      have hresolve : resolveOutOfRange w = true := by simpa [legalWord, hmatches, hobserve] using h
      obtain ⟨h8, hi⟩ := (resolveOutOfRange_iff w).mp hresolve
      exact ⟨_, decodeWord_letterOutOfRange h8 (by omega) hi⟩

theorem legalWord_of_decodeWord {w : ReqWord} {i : Instr} (h : decodeWord w = .ok i) : legalWord w = true := by
  by_contra hnot
  obtain ⟨why, hwhy⟩ := decodeWord_refuses_of_not_legal (Bool.eq_false_iff.mpr hnot)
  cases h.symm.trans hwhy

/-- Settles O2: a word that decodes is legal, so it is the encoding of something, and that is what it decodes to. -/
theorem decodedWordIsItsEncoding : Obligations.DecodedWordIsItsEncoding := by
  intro w i h
  obtain ⟨j, hj⟩ := exists_encode_of_legalWord (legalWord_of_decodeWord h)
  obtain rfl : j = i := Except.ok.inj ((decodeWord_of_encode_eq hj).symm.trans h)
  exact hj

/-- The rows of the table have distinct operation codes. -/
theorem opcodeTable_pattern_injective : ∀ a ∈ opcodeTable, ∀ b ∈ opcodeTable, a.pattern = b.pattern → a = b := by decide

/-- Settles O3: legal words are encodings, illegal ones are refused; a row that matches is found by its operation code. -/
theorem decoderAcceptsExactlyLegalWords : Obligations.DecoderAcceptsExactlyLegalWords := by
  refine ⟨fun w => ⟨fun ⟨i, hi⟩ => legalWord_of_decodeWord hi, fun h => ?_⟩, fun w a b ha hb hma hmb => ?_⟩
  · obtain ⟨i, hi⟩ := exists_encode_of_legalWord h
    exact ⟨i, decodeWord_of_encode_eq hi⟩
  · exact opcodeTable_pattern_injective a ha b hb
      ((opCode_of_matchesWord ha hma).symm.trans (opCode_of_matchesWord hb hmb))

/-- Settles O5: each word that decodes is an operation's encoding, and the two others show why they are refused. -/
theorem specWordsDecode : Obligations.SpecWordsDecode := by
  refine ⟨decodeWord_of_encode_eq (by decide), decodeWord_of_encode_eq (by decide), decodeWord_of_encode_eq (by decide),
    decodeWord_of_encode_eq (by decide), decodeWord_of_encode_eq (by decide), decodeWord_of_encode_eq (by decide),
    decodeWord_of_encode_eq (by decide), decodeWord_of_encode_eq (by decide), ?_, ?_⟩
  · exact decodeWord_switchOutOfRange (by decide) (by decide) (by decide)
  · exact decodeWord_mustBeZero (row := ⟨"CYCLE", 0xFFFFFFFF#32, 7#32⟩) (by decide) (by decide) (by decide)

end Sys2Proof

namespace Sys2Proof.Machine

open Sys2Proof.Claims

/-! ### The binary record of a stimulus line (R83) -/

/-- The high part of two parts side by side starts where the low one ends. -/
theorem extractLsb'_append_high {m n start : Nat} (x : BitVec m) (y : BitVec n) (h : start = n) :
    (x ++ y).extractLsb' start m = x := by
  rw [h]
  exact BitVec.extractLsb'_append_eq_left

/-- The record keeps each reading modulo 2^TIME_WIDTH and the snapshot whole. -/
theorem lineOfRecord_lineRecord (w : Nat) (line : CycleLine) :
    lineOfRecord w (lineRecord w line) = ⟨line.t0 % 2 ^ w, line.t1 % 2 ^ w, line.t2 % 2 ^ w, line.t3 % 2 ^ w, line.pressed⟩ := by
  -- a field starts where the parts below it end, and lies below the parts above it
  simp (disch := omega) only [lineOfRecord, lineRecord, extractLsb'_append_high, BitVec.extractLsb'_append_eq_of_add_le,
    BitVec.extractLsb'_eq_self, BitVec.toNat_ofNat]

/-- Settles O7: a reading that fits is itself modulo 2^TIME_WIDTH. -/
theorem stimulusRecordRoundTrip : Obligations.StimulusRecordRoundTrip := by
  intro w line h
  obtain ⟨h0, h1, h2, h3⟩ : line.t0 < 2 ^ w ∧ line.t1 < 2 ^ w ∧ line.t2 < 2 ^ w ∧ line.t3 < 2 ^ w := by
    simpa [StimulusLine.wellFormed, CycleLine.readings, readingFits] using h
  rw [lineOfRecord_lineRecord, Nat.mod_eq_of_lt h0, Nat.mod_eq_of_lt h1, Nat.mod_eq_of_lt h2, Nat.mod_eq_of_lt h3]

/-! ### Pseudo-lines (R84) -/

/-- Setting the listed switches' bits one after another, from any snapshot. -/
theorem getLsbD_foldl_snapshot (switches : List (RowIdx × ColIdx)) (h : BitVec 48) (k : SwitchIdx) :
    (switches.foldl (fun h rc => h ||| BitVec.twoPow 48 (switchOf rc.1 rc.2).val) h).getLsbD k.val = true ↔
      h.getLsbD k.val = true ∨ ∃ rc ∈ switches, switchOf rc.1 rc.2 = k := by
  induction switches generalizing h with
  | nil => simp
  | cons rc rest ih =>
    have hbit : (h ||| BitVec.twoPow 48 (switchOf rc.1 rc.2).val).getLsbD k.val = true ↔
        h.getLsbD k.val = true ∨ switchOf rc.1 rc.2 = k := by
      rw [BitVec.getLsbD_or, Bool.or_eq_true, BitVec.getLsbD_twoPow]
      simp [Fin.ext_iff]
    rw [List.foldl_cons, ih, hbit, or_assoc, List.exists_mem_cons_iff]

theorem getLsbD_snapshotOf (switches : List (RowIdx × ColIdx)) (k : SwitchIdx) :
    (snapshotOf switches).getLsbD k.val = true ↔ ∃ rc ∈ switches, switchOf rc.1 rc.2 = k := by
  rw [snapshotOf, getLsbD_foldl_snapshot]
  exact or_iff_right (by simp)

theorem expandLine_repeated_succ (n : Nat) (line : StimulusLine) :
    expandLine (.repeated (n + 1) line) = expandLine (.repeated n line) ++ expandLine line := by
  simp [expandLine, List.replicate_succ']

theorem expandLine_repeatedStep_succ (n : Nat) (line : StimulusLine) (d : Nat) :
    expandLine (.repeatedStep (n + 1) line d) =
      expandLine (.repeatedStep n line d) ++ (expandLine line).map (shiftLine (n * d)) := by
  simp [expandLine, List.range_succ]

/-- Settles O8: a snapshot holds the listed switches' bits, and a REPEAT of n + 1 is one of n and a last copy. -/
theorem pseudoLinesExpand : Obligations.PseudoLinesExpand := by
  refine ⟨fun t => rfl, fun t => rfl, fun t switches => ⟨snapshotOf switches, rfl, fun k => ?_⟩, fun line d => ⟨rfl, rfl⟩,
    expandLine_repeated_succ, expandLine_repeatedStep_succ⟩
  simp only [getLsbD_snapshotOf, switchOf, Fin.ext_iff]

/-! ### Keycodes that reach the sink (R77, R79) -/

/-- Every keycode parameter of a configuration is a KC_BITS-bit value: the check has refused the others. -/
theorem keycode_lt_of_mem_keycodes (c : Config) {k : Keycode} (hk : k ∈ c.params.keycodes) : k < 2 ^ c.params.kcBits := by
  have haccepted := c.accepted
  by_contra hge
  have hwide : c.params.keycodes.any (fun k => decide (2 ^ c.params.kcBits ≤ k)) = true :=
    List.any_eq_true.mpr ⟨k, hk, by simpa using hge⟩
  simp [Params.check, ite_eq_iff, hwide] at haccepted

theorem modKeycode_mem_keycodes (p : Params) (m : Modifier) (l : Layer) : modKeycode p m l ∈ p.keycodes := by
  simp only [Params.keycodes, ModKeycodes.all]
  cases m with
  | question => by_cases h : l = .base <;> simp [modKeycode, resolveSpecialKey, h]
  | backslash => by_cases h : l = .base <;> simp [modKeycode, resolveSpecialKey, h]
  | _ => simp [modKeycode]

theorem eq_of_mem_chordEvent {flag : Bool} {e e' : Event} (h : e ∈ chordEvent flag e') : e = e' := by
  cases flag with
  | true => exact List.mem_singleton.mp h
  | false => cases h

/-- The keycodes that TAP's events carry are the entry's own and the two chord keycodes (R182). -/
theorem keycode_of_mem_tapEvents {p : Params} {d : DecodedEntry} {e : Event} {k : Keycode} (he : e ∈ tapEvents p d)
    (hk : k ∈ eventKeycodes e) : k = d.keycode ∨ k = p.chordCtrlKc ∨ k = p.chordShiftKc := by
  simp only [tapEvents, List.mem_append] at he
  obtain (((he | he) | he) | he) | he := he
  · exact .inr (.inl (by simpa [eventKeycodes, eq_of_mem_chordEvent he] using hk))
  · exact .inr (.inr (by simpa [eventKeycodes, eq_of_mem_chordEvent he] using hk))
  · simp only [List.mem_cons, List.not_mem_nil, or_false] at he
    obtain rfl | rfl | rfl := he
    · exact .inl (List.mem_singleton.mp hk)
    · cases hk
    · exact .inl (List.mem_singleton.mp hk)
  · exact .inr (.inr (by simpa [eventKeycodes, eq_of_mem_chordEvent he] using hk))
  · exact .inr (.inl (by simpa [eventKeycodes, eq_of_mem_chordEvent he] using hk))

theorem keycode_of_mem_pressOrRelease {b : Bool} {j k : Keycode} (hk : k ∈ eventKeycodes (pressOrRelease b j)) : k = j := by
  cases b with
  | true => exact List.mem_singleton.mp hk
  | false => exact List.mem_singleton.mp hk

/-- A letter's events carry the entry's keycode and the chord keycodes, each a KC_BITS-bit value. -/
theorem letterEvents_keycode_lt {c : Config} {cur prev : KeyboardState} {i : LetterIdx} {e : Event} {k : Keycode}
    (he : e ∈ letterEvents c.params cur prev i) (hk : k ∈ eventKeycodes e) : k < 2 ^ c.params.kcBits := by
  have hentry : (resolveLetter c.params cur.layerSelector i).keycode < 2 ^ c.params.kcBits := Nat.mod_lt _ (by positivity)
  by_cases hedge : cur.letters[i] = prev.letters[i]
  · simp [letterEvents_noEdge c.params hedge] at he
  · cases hchord : isChord (resolveLetter c.params cur.layerSelector i) with
    | true =>
      rw [letterEvents_chord c.params hedge hchord] at he
      obtain rfl | rfl | rfl := keycode_of_mem_tapEvents he hk
      · exact hentry
      · exact keycode_lt_of_mem_keycodes c (by simp [Params.keycodes])
      · exact keycode_lt_of_mem_keycodes c (by simp [Params.keycodes])
    | false =>
      rw [letterEvents_ordinary c.params hedge hchord, List.mem_singleton] at he
      subst he
      exact keycode_of_mem_pressOrRelease hk ▸ hentry

/-- A modifier's event carries the keycode bound to it. -/
theorem modifierEvents_keycode_lt {c : Config} {cur prev : KeyboardState} {m : Modifier} {e : Event} {k : Keycode}
    (he : e ∈ modifierEvents c.params cur prev m) (hk : k ∈ eventKeycodes e) : k < 2 ^ c.params.kcBits := by
  by_cases hedge : cur.modifier m = prev.modifier m
  · simp [modifierEvents_noEdge c.params hedge] at he
  · rw [modifierEvents_edge c.params hedge, List.mem_singleton] at he
    subst he
    rw [keycode_of_mem_pressOrRelease hk]
    exact keycode_lt_of_mem_keycodes c (modKeycode_mem_keycodes _ _ _)

/-- What EMIT appends to the output trace are the events of the difference. -/
theorem emitted_eq (s : State) : emitted s = diffEvents s.config.params s.cur s.prev := by
  have htrace : s.emit.trace = s.trace ++ diffEvents s.config.params s.cur s.prev := by
    rw [State.emit_eq, State.trace, filterMap_toEvent_events, State.trace]
  rw [emitted, exec_emit]
  dsimp only
  rw [htrace, List.drop_left]

/-- Settles O45: each event is a letter's or a modifier's. -/
theorem emittedKeycodesFit : Obligations.EmittedKeycodesFit := by
  intro s e he k hk
  rw [emitted_eq, diffEvents, List.mem_append, List.mem_flatMap, List.mem_flatMap] at he
  obtain ⟨i, -, hi⟩ | ⟨m, -, hm⟩ := he
  · exact letterEvents_keycode_lt hi hk
  · exact modifierEvents_keycode_lt hm hk

/-! ### A stimulus line drives one cycle (R83, 45_scan_cycle.md R212) -/

/-- A switch's record goes through the gate as R100 to R102 say, with the exact acceptance wherever there is one. -/
theorem gateUpdate_gate {timeWidth now : Nat} {c : DebCell} {raw accept : Bool} (hnow : now < 2 ^ timeWidth)
    (haccept : AcceptOk timeWidth c raw now accept) :
    GateUpdate raw now c.time c.raw c.stable (gate c raw now accept).time (gate c raw now accept).raw
      (gate c raw now accept).stable := by
  refine ⟨gate_raw .., ?_, accept, fun hle => haccept _ ?_, gate_stable ..⟩
  · rw [gate_time]
    by_cases h : raw = c.raw
    · rw [noteRaw_same now h, if_pos h]
    · rw [noteRaw_changed now h, if_neg h]
  · rw [gate_time] at hle ⊢
    exact acceptLevel_of_le hnow hle

/-- A cycle senses the 48 switches in their order (R214). -/
theorem finRange48_eq_rows : (List.finRange 4).flatMap (fun r => (List.finRange 12).map (switchOf r)) = List.finRange 48 := by
  decide

theorem pressedLevel_snapshotLevel (h : BitVec 48) (k : SwitchIdx) : pressedLevel (snapshotLevel h k) = h.getLsbD k.val := by
  unfold snapshotLevel
  cases h.getLsbD k.val <;> rfl

theorem readings_eq_map_lineReading (line : CycleLine) : line.readings = (List.finRange 4).map (lineReading line) := rfl

/-- Where nothing else is listed, the rows of a loaded line's cycle read the line's readings and sense its snapshot, and
leave nothing listed. -/
theorem RowsScanned.loadLine {s u : State} {line : CycleLine} {now : RowIdx → Nat} {raw accept : SwitchIdx → Bool}
    (h : RowsScanned (List.finRange 4) (s.loadLine line) u now raw accept) (hreadings : s.env.readings = [])
    (hlevels : s.env.levels = []) :
    u.env.readings = [] ∧ u.env.levels = [] ∧ (∀ r, now r = lineReading line r % 2 ^ s.config.params.timeWidth) ∧
      ∀ k, raw k = line.pressed.getLsbD k.val := by
  obtain ⟨hr, hnow⟩ := h.readings line.readings [] (by simp [State.loadLine, hreadings]) rfl
  obtain ⟨hl, hraw⟩ := h.levels (snapshotLevels line.pressed) [] (by simp [State.loadLine, hlevels]) (by simp [snapshotLevels])
  refine ⟨hr, hl, fun r => ?_, fun k => ?_⟩
  · rw [readings_eq_map_lineReading, List.map_map] at hnow
    exact List.map_inj_left.mp hnow r (List.mem_finRange r)
  · have hrows : (List.finRange 4).flatMap (fun r => (List.finRange 12).map fun c => raw (switchOf r c)) =
        (List.finRange 48).map raw := by
      rw [← finRange48_eq_rows, List.map_flatMap]
      simp only [List.map_map, Function.comp_def]
    rw [hrows, snapshotLevels, List.map_map] at hraw
    exact (List.map_inj_left.mp hraw k (List.mem_finRange k)).trans (pressedLevel_snapshotLevel _ _)

/-- Settles O49: CYCLE's rows take the line's readings and levels, and EMIT and COMMIT leave the records alone. -/
theorem stimulusLineDrivesOneCycle : Obligations.StimulusLineDrivesOneCycle := by
  intro s line hphase hreadings hlevels
  obtain ⟨t, now, raw, accept, hcycle, hscan⟩ := (s.loadLine line).cycle_spec
  obtain ⟨hr, hl, hnow, hraw⟩ := hscan.loadLine hreadings hlevels
  refine ⟨(s.loadLine line).cycle, exec_cycle hphase, ?_, ?_, fun k => ?_⟩
  · rw [hcycle, State.setPhase_env, State.commit, State.setPrev_env, State.emit_env, hr]
  · rw [hcycle, State.setPhase_env, State.commit, State.setPrev_env, State.emit_env, hl]
  · have hk : switchRow k ∈ List.finRange 4 := List.mem_finRange _
    have hupdate := gateUpdate_gate (hscan.fits _ hk) (hscan.accepted k hk)
    rw [← hscan.scanned k hk, hnow, hraw] at hupdate
    rw [hcycle]
    simpa [State.commit, State.cell, State.loadLine] using hupdate

end Sys2Proof.Machine
end

section
/-! PROOFS. The family 40_debounce_gate.md: OBSERVE in every state, its strict window, the bounces it never reports, and its
draws across a clock wrap (R100 to R106). -/

namespace Sys2Proof.Machine

open Sys2Proof.Claims

/-! ### What one OBSERVE leaves, said once (R100, R106) -/

/-- The state after OBSERVE has written switch k's record, left environment e and answered the record's stable level. -/
def State.observed (k : SwitchIdx) (c : DebCell) (e : Env) (s : State) : State :=
  ((s.setEnv e).setCell k c).reply (.stable c.stable)

section Observed

variable (k : SwitchIdx) (c : DebCell) (e : Env) (s : State)

@[simp] theorem State.observed_config : (s.observed k c e).config = s.config := rfl
@[simp] theorem State.observed_env : (s.observed k c e).env = e := rfl
@[simp] theorem State.observed_answers : (s.observed k c e).answers = s.answers ++ [.stable c.stable] := rfl
@[simp] theorem State.observed_debT : (s.observed k c e).debT = s.debT.set k.val c.time k.isLt := rfl
@[simp] theorem State.observed_debRaw : (s.observed k c e).debRaw = s.debRaw.set k.val c.raw k.isLt := rfl
@[simp] theorem State.observed_debStable : (s.observed k c e).debStable = s.debStable.set k.val c.stable k.isLt := rfl
@[simp] theorem State.cell_observed_same : (s.observed k c e).cell k = c := State.cell_setCell_same k c (s.setEnv e)

theorem State.cell_observed_other {j : SwitchIdx} (h : j ≠ k) : (s.observed k c e).cell j = s.cell j :=
  State.cell_setCell_other h c (s.setEnv e)

end Observed

/-- A reading is the environment's next one and changes the environment alone. -/
theorem State.drawReading_nextReading (s : State) :
    ∃ now e, s.drawReading = (now, s.setEnv e) ∧ NextReading s now ∧ e.levels = s.env.levels := by
  obtain ⟨now, e, hread, hlt, hlevels, -⟩ := s.drawReading_spec
  refine ⟨now, e, hread, ⟨hlt, fun t rest hlist => ?_⟩, hlevels⟩
  exact congrArg Prod.fst (hread.symm.trans (State.drawReading_listed hlist))

/-- OBSERVE goes on in every state: its switch's record goes through the gate with the environment's next reading and the
exact acceptance wherever there is one. -/
theorem exec_observe_spec (k : SwitchIdx) (raw : Bool) (s : State) :
    ∃ now a e, NextReading s now ∧ AcceptOk s.config.params.timeWidth (s.cell k) raw now a ∧ e.levels = s.env.levels ∧
      exec (.observe k raw) s = .next (s.observed k (gate (s.cell k) raw now a) e) := by
  obtain ⟨now, e, hread, hnext, hlevels⟩ := s.drawReading_nextReading
  obtain ⟨a, e', hobs, -, hlevels', hok, -⟩ := (s.setEnv e).observe_spec k raw now
  exact ⟨now, a, e', hnext, hok, hlevels'.trans hlevels, exec_observe hread hobs⟩

section Observe

variable {k : SwitchIdx} {raw a : Bool} {s : State} {t now : Nat} {rest : List Nat}

/-- OBSERVE's operation when the acceptance is a draw (R102). -/
theorem State.observe_drawn {e : Env}
    (h : acceptLevel s.config.params.timeWidth (noteRaw (s.cell k) raw now) now = none)
    (hdraw : s.drawAccept = (a, s.setEnv e)) :
    s.observe k raw now = ((gate (s.cell k) raw now a).stable, (s.setEnv e).setCell k (gate (s.cell k) raw now a)) := by
  simp only [State.observe, State.decideAccept, h, hdraw, gate]

/-- OBSERVE with a listed reading and an exact acceptance takes the reading and no draw. -/
theorem exec_observe_exact (hlist : s.env.readings = t :: rest) (hnow : t % 2 ^ s.config.params.timeWidth = now)
    (haccept : acceptLevel s.config.params.timeWidth (noteRaw (s.cell k) raw now) now = some a) :
    exec (.observe k raw) s =
      .next (s.observed k (gate (s.cell k) raw now a) { s.env with readings := rest }) := by
  subst hnow
  exact exec_observe (State.drawReading_listed hlist) (State.observe_exact haccept)

/-- OBSERVE with a listed reading below the stored time takes the reading and the listed draw (R102). -/
theorem exec_observe_drawn {draws : List Bool} (hlist : s.env.readings = t :: rest)
    (hnow : t % 2 ^ s.config.params.timeWidth = now) (hwrap : now < (noteRaw (s.cell k) raw now).time)
    (hdraws : s.env.accepts = a :: draws) :
    exec (.observe k raw) s =
      .next (s.observed k (gate (s.cell k) raw now a) { s.env with readings := rest, accepts := draws }) := by
  subst hnow
  exact exec_observe (State.drawReading_listed hlist)
    (State.observe_drawn (acceptLevel_of_lt hwrap) (State.drawAccept_listed hdraws))

end Observe

/-- Settles O15: the record's three elements go through the gate. -/
theorem observeResult : Obligations.ObserveResult := by
  intro k raw s
  obtain ⟨now, a, e, hnext, hok, hlevels, hexec⟩ := exec_observe_spec k raw s
  exact ⟨now, _, _, _, e, hnext, gateUpdate_gate hnext.1 hok, hlevels, hexec⟩

/-- A settled record stays as it is whether or not the level is accepted again (R105). -/
theorem gate_settled {c : DebCell} {raw : Bool} (now : Nat) (accept : Bool) (hraw : raw = c.raw) (hstable : raw = c.stable) :
    gate c raw now accept = c := by
  rw [gate, noteRaw_same now hraw, takeStable, hstable]
  cases accept <;> rfl

/-- Writing back the record that is there changes the environment and the answers alone. -/
theorem State.observed_cell (k : SwitchIdx) (e : Env) (s : State) :
    s.observed k (s.cell k) e = { s with env := e, answers := s.answers ++ [.stable s.debStable[k]] } :=
  congrArg (State.reply (.stable s.debStable[k])) ((s.setEnv e).setCell_cell k)

/-- Settles O18: the exact acceptance, whichever it is, writes the record back as it was. -/
theorem acceptedLevelIsReturnedAgain : Obligations.AcceptedLevelIsReturnedAgain := by
  intro k raw s t rest hraw hstable hlist hle
  have hsame := noteRaw_same (c := s.cell k) (t % 2 ^ s.config.params.timeWidth) hraw.symm
  have haccept := acceptLevel_of_le (c := s.cell k) (Nat.mod_lt t (Nat.two_pow_pos _)) hle
  rw [← hsame] at haccept
  rw [exec_observe_exact hlist rfl haccept, gate_settled _ _ hraw.symm hstable.symm, State.observed_cell, hstable]

/-- Settles O19: a change of the raw level is not accepted, and a level is accepted only where the raw level stays. -/
theorem changeIsNeverAcceptedAtOnce : Obligations.ChangeIsNeverAcceptedAtOnce := by
  intro k raw s
  obtain ⟨now, a, e, hnext, hok, -, hexec⟩ := exec_observe_spec k raw s
  have hnever (h : raw ≠ s.debRaw[k]) : a = false := hok _ (acceptLevel_noteRaw_changed _ hnext.1 h)
  refine ⟨_, hexec, fun h => ?_, fun hnew => ?_⟩
  · simp [hnever h, State.cell]
  · have haccept : a = true := by
      by_contra hnot
      simp [hnot, State.cell] at hnew
    have hraw : raw = s.debRaw[k] := by
      by_contra h
      cases haccept.symm.trans (hnever h)
    simp [haccept, hraw]

/-- Settles O21: the raw level stays, so the stored time stays above the reading and the listed draw is taken. -/
theorem wrapAcceptanceIsADraw : Obligations.WrapAcceptanceIsADraw := by
  intro k raw accept s t rest draws hraw hlist hwrap hdraws
  have hsame := noteRaw_same (c := s.cell k) (t % 2 ^ s.config.params.timeWidth) hraw.symm
  refine ⟨_, exec_observe_drawn hlist rfl (by rw [hsame]; exact hwrap) hdraws, ?_, ?_, ?_, ?_, rfl⟩
  · simp [State.cell]
  · simp [State.cell]
  · rw [State.observed_debT, gate_time, hsame]
    exact Vector.set_getElem_self ..
  · simp [← hraw]

/-! ### OBSERVE depends on the configuration, the environment and its own record (R106) -/

section Congr

variable {s s' : State}

theorem State.drawReading_congr (hconfig : s.config = s'.config) (henv : s.env = s'.env) :
    ∃ now e, s.drawReading = (now, s.setEnv e) ∧ s'.drawReading = (now, s'.setEnv e) := by
  simp only [State.drawReading, hconfig, henv]
  cases s'.env.readings with
  | nil => exact ⟨_, _, rfl, rfl⟩
  | cons t rest => exact ⟨_, _, rfl, rfl⟩

theorem State.drawAccept_congr (henv : s.env = s'.env) :
    ∃ a e, s.drawAccept = (a, s.setEnv e) ∧ s'.drawAccept = (a, s'.setEnv e) := by
  simp only [State.drawAccept, henv]
  cases s'.env.accepts with
  | nil => exact ⟨_, _, rfl, rfl⟩
  | cons a rest => exact ⟨_, _, rfl, rfl⟩

variable {k : SwitchIdx}

theorem State.observe_congr (raw : Bool) (now : Nat) (hconfig : s.config = s'.config) (henv : s.env = s'.env)
    (hcell : s.cell k = s'.cell k) :
    ∃ c e, s.observe k raw now = (c.stable, (s.setEnv e).setCell k c) ∧
      s'.observe k raw now = (c.stable, (s'.setEnv e).setCell k c) := by
  cases haccept : acceptLevel s.config.params.timeWidth (noteRaw (s.cell k) raw now) now with
  | some a =>
    refine ⟨gate (s.cell k) raw now a, s.env, State.observe_exact haccept, ?_⟩
    rw [hconfig, hcell] at haccept
    rw [hcell, henv]
    exact State.observe_exact haccept
  | none =>
    obtain ⟨a, e, hdraw, hdraw'⟩ := State.drawAccept_congr henv
    refine ⟨gate (s.cell k) raw now a, e, State.observe_drawn haccept hdraw, ?_⟩
    rw [hconfig, hcell] at haccept
    rw [hcell]
    exact State.observe_drawn haccept hdraw'

theorem exec_observe_congr (raw : Bool) (hconfig : s.config = s'.config) (henv : s.env = s'.env)
    (hcell : s.cell k = s'.cell k) :
    ∃ c e, exec (.observe k raw) s = .next (s.observed k c e) ∧ exec (.observe k raw) s' = .next (s'.observed k c e) := by
  obtain ⟨now, e, hread, hread'⟩ := State.drawReading_congr hconfig henv
  obtain ⟨c, e', hobs, hobs'⟩ :=
    State.observe_congr (s := s.setEnv e) (s' := s'.setEnv e) (k := k) raw now hconfig rfl hcell
  exact ⟨c, e', exec_observe hread hobs, exec_observe hread' hobs'⟩

end Congr

/-- Settles O20: both states get the same record and the same environment, and the other records stay. -/
theorem observeDependsOnItsSwitchAlone : Obligations.ObserveDependsOnItsSwitchAlone := by
  intro k raw s s' hconfig henv ht hraw hstable
  have hcell : s.cell k = s'.cell k := by rw [State.cell, ht, hraw, hstable, State.cell]
  obtain ⟨c, e, hexec, hexec'⟩ := exec_observe_congr raw hconfig henv hcell
  refine ⟨_, _, c.stable, hexec, hexec', rfl, rfl, rfl, by simp, by simp, by simp, fun j hj => ?_⟩
  exact DebCell.mk.inj (s.cell_observed_other k c e hj)

/-! ### A run of OBSERVEs with readings that do not fall, as a run of the gate (R100, R101) -/

/-- The record after a call of the gate at a reading not below the stored time, where the window is exact (R101). -/
def gateExact (c : DebCell) (raw : Bool) (now : Nat) : DebCell :=
  gate c raw now (decide (15 < now - (noteRaw c raw now).time))

/-- What the gate answers to observations in a row. -/
def gateAnswers : DebCell → List (Bool × Nat) → List Answer
  | _, [] => []
  | c, (raw, now) :: rest => .stable (gateExact c raw now).stable :: gateAnswers (gateExact c raw now) rest

/-- A change of the raw level restarts the window and leaves the stable level (R103). -/
theorem gateExact_changed {c : DebCell} {raw : Bool} (now : Nat) (h : raw ≠ c.raw) :
    gateExact c raw now = ⟨now, raw, c.stable⟩ := by
  simp [gateExact, gate, noteRaw_changed now h, takeStable]

/-- With the raw level unchanged the stable level takes it from 16 ms after the stored time (R101). -/
theorem gateExact_same {c : DebCell} {raw : Bool} (now : Nat) (h : raw = c.raw) :
    gateExact c raw now = ⟨c.time, raw, if now < c.time + 16 then c.stable else raw⟩ := by
  rw [gateExact, gate, noteRaw_same now h, takeStable]
  by_cases hwindow : now < c.time + 16
  · rw [if_neg (by simp only [decide_eq_true_eq]; omega), if_pos hwindow, h]
  · rw [if_pos (by simp only [decide_eq_true_eq]; omega), if_neg hwindow, h]

theorem noteRaw_time_le {c : DebCell} {now : Nat} (raw : Bool) (h : c.time ≤ now) : (noteRaw c raw now).time ≤ now := by
  rcases noteRaw_time c raw now with ht | ht <;> omega

theorem runAll_cons {i : Instr} {is : List Instr} {s u : State} (h : exec i s = .next u) :
    runAll (i :: is) s = runAll is u := by
  rw [runAll, h]

/-- OBSERVE with a listed reading that fits, where the stored time is not above it. -/
theorem exec_observe_gateExact {k : SwitchIdx} {raw : Bool} {s : State} {t : Nat} {rest : List Nat}
    (hlist : s.env.readings = t :: rest) (hfit : t < 2 ^ s.config.params.timeWidth)
    (hle : (noteRaw (s.cell k) raw t).time ≤ t) :
    exec (.observe k raw) s = .next (s.observed k (gateExact (s.cell k) raw t) { s.env with readings := rest }) :=
  exec_observe_exact hlist (Nat.mod_eq_of_lt hfit) (acceptLevel_of_le hfit hle)

/-- OBSERVEs in a row, with listed readings that fit and never fall, answer as the gate does. -/
theorem runAll_observe (k : SwitchIdx) (observations : List (Bool × Nat)) (rest : List Nat) (s : State)
    (hlist : s.env.readings = observations.map (·.2) ++ rest)
    (hsorted : ((s.cell k).time :: observations.map (·.2)).Pairwise (· ≤ ·))
    (hfit : ∀ o ∈ observations, o.2 < 2 ^ s.config.params.timeWidth) :
    ∃ u, runAll (observations.map fun o => .observe k o.1) s = some u ∧
      u.answers = s.answers ++ gateAnswers (s.cell k) observations := by
  induction observations generalizing s with
  | nil => exact ⟨s, rfl, (List.append_nil _).symm⟩
  | cons o later ih =>
    obtain ⟨raw, t⟩ := o
    obtain ⟨htime, htail⟩ := List.pairwise_cons.mp hsorted
    obtain ⟨hlater, hrest⟩ := List.pairwise_cons.mp htail
    have hle := noteRaw_time_le raw (htime t List.mem_cons_self)
    have hexec := exec_observe_gateExact (k := k) hlist (hfit _ List.mem_cons_self) hle
    have hsorted' : ((gateExact (s.cell k) raw t).time :: later.map (·.2)).Pairwise (· ≤ ·) := by
      rw [gateExact, gate_time]
      exact List.pairwise_cons.mpr ⟨fun n hn => hle.trans (hlater n hn), hrest⟩
    obtain ⟨u, hrun, hanswers⟩ := ih (s.observed k (gateExact (s.cell k) raw t) { s.env with readings := _ }) rfl
      (by rwa [State.cell_observed_same]) fun o ho => hfit o (List.mem_cons_of_mem _ ho)
    refine ⟨u, (runAll_cons hexec).trans hrun, ?_⟩
    rw [hanswers, State.observed_answers, State.cell_observed_same, List.append_assoc]
    rfl

/-! ### The strict window (R101) -/

/-- With the raw level steady the gate answers the stable level up to 15 ms after the stored time and the raw one from 16. -/
theorem gateAnswers_steady {c : DebCell} {raw : Bool} {times : List Nat} (hraw : raw = c.raw) (hsorted : times.Pairwise (· ≤ ·)) :
    gateAnswers c (times.map (raw, ·)) = times.map fun n => .stable (if n < c.time + 16 then c.stable else raw) := by
  induction times generalizing c with
  | nil => rfl
  | cons t later ih =>
    obtain ⟨hlater, hrest⟩ := List.pairwise_cons.mp hsorted
    have hnext := ih (c := ⟨c.time, raw, if t < c.time + 16 then c.stable else raw⟩) rfl hrest
    rw [List.map_cons, gateAnswers, gateExact_same t hraw, hnext, List.map_cons]
    refine congrArg _ (List.map_congr_left fun n hn => ?_)
    by_cases hn16 : n < c.time + 16
    · rw [if_pos hn16, if_pos hn16, if_pos ((hlater n hn).trans_lt hn16)]
    · rw [if_neg hn16, if_neg hn16]

/-- Settles O16: the first call restarts the window at t, and the later ones see a steady raw level. -/
theorem debounceWindowIsStrict : Obligations.DebounceWindowIsStrict := by
  intro k raw s t later rest hchange hlist hsorted hfit
  obtain ⟨hlater, hrest⟩ := List.pairwise_cons.mp hsorted
  have hgate := gateExact_changed (c := s.cell k) t hchange
  have hexec := exec_observe_gateExact (k := k) (raw := raw) (rest := later ++ rest) hlist (hfit t List.mem_cons_self)
    (by rw [noteRaw_changed t hchange])
  rw [hgate] at hexec
  obtain ⟨u, hrun, hanswers⟩ := runAll_observe k (later.map (raw, ·)) rest
    (s.observed k ⟨t, raw, (s.cell k).stable⟩ { s.env with readings := later ++ rest })
    (by simp) (by simpa using hsorted) (by simpa using fun n hn => hfit n (List.mem_cons_of_mem _ hn))
  refine ⟨u, ?_, ?_⟩
  · rw [List.replicate_succ, runAll_cons hexec]
    simpa only [List.map_map, Function.comp_def, List.map_const'] using hrun
  · rw [hanswers, State.cell_observed_same, gateAnswers_steady rfl hrest, State.observed_answers, List.append_assoc]
    rfl

/-! ### Bounces within the window (R104) -/

/-- The time the record's present stretch away from level b began. -/
def stretchStart (b : Bool) (c : DebCell) : Option Nat := if c.raw = b then none else some c.time

theorem stretchStart_of_eq {b : Bool} {c : DebCell} (h : c.raw = b) : stretchStart b c = none := if_pos h

theorem stretchStart_of_ne {b : Bool} {c : DebCell} (h : c.raw ≠ b) : stretchStart b c = some c.time := if_neg h

theorem shortPulses_back {b : Bool} {start : Option Nat} {t : Nat} {rest : List (Bool × Nat)} :
    ShortPulses b start ((b, t) :: rest) ↔ ShortPulses b none rest := by
  simp [ShortPulses]

theorem shortPulses_away {b raw : Bool} {start : Option Nat} {t : Nat} {rest : List (Bool × Nat)} (h : raw ≠ b) :
    ShortPulses b start ((raw, t) :: rest) ↔
      t - start.getD t ≤ 15 ∧ ShortPulses b (some (start.getD t)) rest := by
  simp [ShortPulses, h]

/-- One observation of a bounce that stays within the window leaves the stable level, and the rest stays within it too. -/
theorem gateExact_shortPulses {b raw : Bool} {c : DebCell} {t : Nat} {rest : List (Bool × Nat)} (hstable : c.stable = b)
    (hshort : ShortPulses b (stretchStart b c) ((raw, t) :: rest)) :
    (gateExact c raw t).stable = b ∧ ShortPulses b (stretchStart b (gateExact c raw t)) rest := by
  by_cases hb : raw = b
  · -- back at the stable level: whatever is accepted is b
    subst hb
    have hnone : stretchStart raw (gateExact c raw t) = none := stretchStart_of_eq (gate_raw ..)
    refine ⟨?_, hnone ▸ shortPulses_back.mp hshort⟩
    rw [gateExact, gate_stable, hstable, ite_self]
  · obtain ⟨hwithin, hrest⟩ := (shortPulses_away hb).mp hshort
    have hstart : stretchStart b (gateExact c raw t) = some (gateExact c raw t).time :=
      stretchStart_of_ne (by rwa [gateExact, gate_raw])
    rw [hstart]
    by_cases hraw : raw = c.raw
    · -- the stretch that began at the stored time goes on
      rw [stretchStart_of_ne (hraw ▸ hb), Option.getD_some] at hwithin hrest
      rw [gateExact_same t hraw]
      exact ⟨(if_pos (by omega)).trans hstable, hrest⟩
    · -- a stretch begins: the record was at b, the one level besides raw
      have hc : c.raw = b := (Bool.eq_not.mpr (Ne.symm hraw)).trans (Bool.eq_not.mpr (Ne.symm hb)).symm
      rw [stretchStart_of_eq hc, Option.getD_none] at hrest
      rw [gateExact_changed t hraw]
      exact ⟨hstable, hrest⟩

theorem gateAnswers_shortPulses {b : Bool} {c : DebCell} {observations : List (Bool × Nat)} (hstable : c.stable = b)
    (hshort : ShortPulses b (stretchStart b c) observations) :
    gateAnswers c observations = observations.map fun _ => .stable b := by
  induction observations generalizing c with
  | nil => rfl
  | cons o rest ih =>
    obtain ⟨hstable', hshort'⟩ := gateExact_shortPulses hstable hshort
    rw [gateAnswers, hstable', ih hstable' hshort', List.map_cons]

/-- Settles O17: the run answers as the gate does, which never leaves the stable level. -/
theorem shortPulsesAreNeverReported : Obligations.ShortPulsesAreNeverReported := by
  intro k b s observations rest hraw hstable hlist hsorted hfit hshort
  obtain ⟨u, hrun, hanswers⟩ := runAll_observe k observations rest s hlist hsorted hfit
  have hstart : stretchStart b (s.cell k) = none := stretchStart_of_eq hraw
  rw [gateAnswers_shortPulses hstable (hstart ▸ hshort)] at hanswers
  exact ⟨u, hrun, hanswers⟩

end Sys2Proof.Machine
end

section
/-! PROOFS. The family 41_matrix_sampler.md: what SCAN_ROW answers, the row lines it drives, and what it leaves unchanged
(R120 to R123). -/

namespace Sys2Proof.Machine

open Sys2Proof.Claims

/-- SCAN_ROW goes on in every state: its row is scanned with the environment's next reading and the mask is given back. -/
theorem exec_scanRow_spec (r : RowIdx) (s : State) :
    ∃ now e mask u raw accept, NextReading s now ∧ e.levels = s.env.levels ∧
      RowScanned r now (s.setEnv e) mask u raw accept ∧ exec (.scanRow r) s = .next (u.reply (.mask mask)) := by
  obtain ⟨now, e, hread, hnext, hlevels⟩ := s.drawReading_nextReading
  obtain ⟨mask, u, raw, accept, hscan, hspec⟩ := (s.setEnv e).scanRow_spec r now
  exact ⟨now, e, mask, u, raw, accept, hnext, hlevels, hspec, exec_scanRow hread hscan⟩

/-- A column is pressed exactly when its level is LOW (30_encoding.md R72). -/
theorem pressedLevel_eq_decide (l : LineLevel) : pressedLevel l = decide (l = .low) := by cases l <;> rfl

/-- A line written is that line's level, every other line's stays. -/
theorem getElem_set_line (lines : Vector RowLevel 4) (r r' : RowIdx) (level : RowLevel) :
    (lines.set r.val level r.isLt)[r'] = if r' = r then level else lines[r'] := by
  simp only [Fin.getElem_fin, Vector.getElem_set, Fin.val_inj, eq_comm (a := r)]

section RowScan

variable {r : RowIdx} {now : Nat} {s u : State} {mask : Mask} {raw accept : ColIdx → Bool}

/-- Each switch of a scanned row goes once through the gate (R120). -/
theorem RowScanned.gateUpdate (h : RowScanned r now s mask u raw accept) (hnow : now < 2 ^ s.config.params.timeWidth)
    (c : ColIdx) :
    GateUpdate (raw c) now s.debT[switchOf r c] s.debRaw[switchOf r c] s.debStable[switchOf r c]
      u.debT[switchOf r c] u.debRaw[switchOf r c] u.debStable[switchOf r c] := by
  have hgate := gateUpdate_gate hnow (h.accepted c)
  rwa [← h.scanned c] at hgate

/-- With 12 levels listed a row scan takes them, column c the level number c (R122). -/
theorem RowScanned.levels_vector (h : RowScanned r now s mask u raw accept) {lv : Vector LineLevel 12}
    {rest : List LineLevel} (hlist : s.env.levels = lv.toList ++ rest) :
    u.env.levels = rest ∧ ∀ c : ColIdx, raw c = decide (lv[c] = .low) := by
  obtain ⟨hrest, hraw⟩ := h.levels lv.toList rest hlist lv.length_toList
  refine ⟨hrest, fun c => ?_⟩
  have hcol := congrArg (·[c.val]?) hraw
  simpa [pressedLevel_eq_decide] using hcol

/-- A row scan leaves every other row's line as it was. -/
theorem RowScanned.rowLine_other (h : RowScanned r now s mask u raw accept) {r' : RowIdx} (hr : r' ≠ r) :
    u.rowLine[r'] = s.rowLine[r'] := by
  rw [h.rowLine, getElem_set_line, if_neg hr]

end RowScan

/-- Settles O22: the row scan's records, mask and levels, with the environment's next reading. -/
theorem scanRowResult : Obligations.ScanRowResult := by
  intro r s
  obtain ⟨now, e, mask, u, raw, accept, hnext, hlevels, hscan, hexec⟩ := exec_scanRow_spec r s
  refine ⟨now, raw, mask, _, hexec, hnext, ?_, hscan.gateUpdate hnext.1, hscan.maskBits, fun lv rest hlist => ?_⟩
  · rw [State.reply_answers, hscan.answers, State.setEnv_answers]
  · exact hscan.levels_vector (hlevels.trans hlist)

/-- After the first 1 to 13 calls of a row scan the row line is driven ACTIVE and no other line has moved (R121). -/
theorem linesAfter_take_rowCalls (r : RowIdx) {n : Nat} (hlow : 1 ≤ n) (hhigh : n ≤ 13) (lines : Vector RowLevel 4) :
    linesAfter ((rowCalls r).take n) lines = lines.set r.val .active r.isLt := by
  obtain ⟨m, rfl⟩ := Nat.exists_eq_add_of_le' hlow
  have hsenses : m ≤ ((List.finRange 12).map Call.sense).length := by
    rw [List.length_map, List.length_finRange]
    omega
  have htake : (rowCalls r).take (m + 1) = .drive r .active :: ((List.finRange 12).take m).map Call.sense := by
    rw [rowCalls, List.append_assoc, List.singleton_append, List.take_succ_cons, List.take_append_of_le_length hsenses,
      List.map_take]
  rw [htake]
  exact linesAfter_sense _ _

/-- Settles O23: the calls of a row scan, and the row lines after each of their prefixes. -/
theorem scanRowDrivesItsLineOnly : Obligations.ScanRowDrivesItsLineOnly := by
  intro r s hs
  obtain ⟨now, e, mask, u, raw, accept, -, -, hscan, hexec⟩ := exec_scanRow_spec r s
  refine ⟨_, rowCalls r, hexec, hscan.calls_eq, rfl, fun n hlow hhigh r' => ?_, hscan.linesInactive hs⟩
  rw [linesAfter_take_rowCalls r hlow hhigh, getElem_set_line, hs r']

/-- Settles O24: the frame of a row scan, with its trace, lines and records of other rows. -/
theorem scanRowLeavesTheRest : Obligations.ScanRowLeavesTheRest := by
  intro r s
  obtain ⟨now, e, mask, u, raw, accept, -, -, hscan, hexec⟩ := exec_scanRow_spec r s
  refine ⟨_, hexec, hscan.config, hscan.cur, hscan.prev, hscan.phase, hscan.hostSet, hscan.trace, hscan.requests,
    fun r' hr => hscan.rowLine_other hr, fun k hk => ?_⟩
  have hrow : switchRow k ≠ r := fun h => hk (congrArg Fin.val h)
  have hcell := hscan.others k hrow
  exact ⟨congrArg DebCell.time hcell, congrArg DebCell.raw hcell, congrArg DebCell.stable hcell⟩

end Sys2Proof.Machine
end

section
/-! PROOFS. The family 42_state_assembler.md: what ASSEMBLE writes from its mask, what it leaves unchanged, and what all four
rows make of CUR (R140 to R147). -/

namespace Sys2Proof.Machine

open Sys2Proof.Claims

/-! ### The fields of one row (R141 to R144, R146) -/

section Row

variable (r : RowIdx) (mask : Mask) (ks : KeyboardState)

/-- A letter by its number: bit (i mod 10) + 1 in row i div 10, as before in every other (30_encoding.md R73). -/
theorem assembleInto_letters_getElem {i : Nat} (hi : i < 30) :
    (assembleInto r mask ks).letters[i] = if i / 10 = r.val then mask.getLsbD (i % 10 + 1) else ks.letters[i] := by
  have hletter := assembleInto_letter r mask ks ⟨i, hi⟩
  simpa only [letterRow, letterCol, maskBit, Fin.ext_iff, Fin.getElem_fin] using hletter

/-- Letter j of the ten letters of a letter row is bit j + 1 of its mask. -/
theorem assembleInto_letters_own {i j : Nat} (hi : i < 30) (hj : j < 10) (hij : i = r.val * 10 + j) :
    (assembleInto r mask ks).letters[i] = mask.getLsbD (j + 1) := by
  rw [assembleInto_letters_getElem, if_pos (by omega), show i % 10 = j by omega]

/-- Row 3 writes no letters (R144). -/
theorem assembleInto_letters_row3 : (assembleInto 3 mask ks).letters = ks.letters :=
  Vector.ext fun i hi => by
    rw [assembleInto_letters_getElem, if_neg]
    exact Nat.ne_of_lt (Nat.div_lt_of_lt_mul hi)

theorem assembleInto_modifier_own (m : Modifier) :
    (assembleInto (modifierRow m) mask ks).modifier m = maskBit mask (modifierCol m) := by
  rw [assembleInto_modifier, if_pos rfl]

variable {r}

theorem assembleInto_modifier_other {m : Modifier} (h : r ≠ modifierRow m) :
    (assembleInto r mask ks).modifier m = ks.modifier m := by
  rw [assembleInto_modifier, if_neg h.symm]

theorem assembleInto_layer_other (h : r ≠ 3) : (assembleInto r mask ks).layerSelector = ks.layerSelector := by
  rw [assembleInto_layer, if_neg h]

end Row

theorem code_layerOfBits (b1 b0 : Bool) : (layerOfBits b1 b0).code.val = b0.toNat + 2 * b1.toNat := by
  cases b1 <;> cases b0 <;> rfl

/-- A modifier's bit by its index. -/
theorem KeyboardState.modifier_modifierOf (ks : KeyboardState) (m : Fin 15) : ks.modifier (modifierOf m) = ks.modifiers[m] :=
  congrArg (ks.modifiers[·]) (modifierIndex_modifierOf m)

/-- The modifiers after the first six are row 3's (10_state.md R24, 30_encoding.md R74). -/
theorem modifierRow_modifierOf_of_le : ∀ m : Fin 15, 6 ≤ m.val → modifierRow (modifierOf m) = 3 := by decide

/-- Settles O26: each field keeps its value in every row but its own. -/
theorem assembleLeavesTheRest : Obligations.AssembleLeavesTheRest := by
  intro r mask s
  have hother {m : Modifier} (h : r ≠ modifierRow m) := assembleInto_modifier_other mask s.cur h
  refine ⟨_, exec_assemble r mask s, fun i => assembleInto_letters_getElem r mask s.cur i.isLt,
    assembleInto_layer_other mask s.cur, fun h => ⟨hother h, hother h⟩, fun h => ⟨hother h, hother h⟩,
    fun h => ⟨hother h, hother h⟩, fun h m hm => ?_⟩
  have hrow := modifierRow_modifierOf_of_le m hm
  rw [← KeyboardState.modifier_modifierOf, hother (hrow ▸ h), KeyboardState.modifier_modifierOf]

/-! ### The bits of one row's switches (R145) -/

theorem switchFunction_eq_unused_iff : ∀ k : SwitchIdx, switchFunction k = .unused ↔ k = 41 := by decide

/-- Switch 41 alone feeds no bit (30_encoding.md R76). -/
theorem KeyboardState.fedBy_eq_none_iff (ks : KeyboardState) (k : SwitchIdx) : ks.fedBy k = none ↔ k = 41 := by
  rw [← switchFunction_eq_unused_iff, KeyboardState.fedBy]
  cases switchFunction k <;> simp

/-- A switch of the row feeds its mask bit, whatever CUR held before. -/
theorem fedBy_assembleInto_own {r : RowIdx} (mask : Mask) (ks : KeyboardState) {k : SwitchIdx} (h : switchRow k = r) :
    (assembleInto r mask ks).fedBy k = if k = 41 then none else some (maskBit mask (switchCol k)) := by
  rw [fedBy_assembleInto, if_pos h]
  by_cases hk : k = 41
  · rw [if_pos hk, (ks.fedBy_eq_none_iff k).mpr hk, Option.map_none]
  · obtain ⟨b, hb⟩ := Option.ne_none_iff_exists'.mp (mt (ks.fedBy_eq_none_iff k).mp hk)
    rw [if_neg hk, hb, Option.map_some]

/-- Settles O27: the row's switches feed their mask bits. -/
theorem assembleOverwrites : Obligations.AssembleOverwrites := by
  intro r mask s
  exact ⟨_, exec_assemble r mask s, fun k hk => fedBy_assembleInto_own mask s.cur (Fin.ext hk)⟩

/-- Masks that agree at the row's used switches assemble to the same CUR. -/
theorem assembleInto_congr {r : RowIdx} {mask mask' : Mask} (ks : KeyboardState)
    (h : ∀ k, switchRow k = r → k ≠ 41 → maskBit mask (switchCol k) = maskBit mask' (switchCol k)) :
    assembleInto r mask ks = assembleInto r mask' ks := by
  refine keyboardState_ext fun k => ?_
  by_cases hr : switchRow k = r
  · rw [fedBy_assembleInto_own mask ks hr, fedBy_assembleInto_own mask' ks hr]
    by_cases hk : k = 41
    · rw [if_pos hk, if_pos hk]
    · rw [if_neg hk, if_neg hk, h k hr hk]
  · rw [fedBy_assembleInto, fedBy_assembleInto, if_neg hr, if_neg hr]

theorem switchCol_ne_five : ∀ k : SwitchIdx, switchRow k = 3 → k ≠ 41 → switchCol k ≠ 5 := by decide

theorem maskBit_xor_bit5 (mask : Mask) {c : ColIdx} (h : c ≠ 5) : maskBit (mask ^^^ 0x020#12) c = maskBit mask c := by
  have hbit : ∀ c : ColIdx, c ≠ 5 → (0x020#12).getLsbD c.val = false := by decide
  rw [maskBit, BitVec.getLsbD_xor, hbit c h, Bool.xor_false, maskBit]

/-- Bit 5 of row 3's mask is read by nothing (R144): its switch is the unused one. -/
theorem assembleInto_row3_xor_bit5 (mask : Mask) (ks : KeyboardState) :
    assembleInto 3 (mask ^^^ 0x020#12) ks = assembleInto 3 mask ks :=
  assembleInto_congr ks fun k hr hk => maskBit_xor_bit5 mask (switchCol_ne_five k hr hk)

/-- Settles O25: every letter and modifier takes its mask bit in its own row, the selector its two bits in row 3. -/
theorem assembleWritesItsRow : Obligations.AssembleWritesItsRow := by
  intro s mask
  have hmod (m : Modifier) := assembleInto_modifier_own mask s.cur m
  refine ⟨_, _, _, _, exec_assemble 0 mask s, exec_assemble 1 mask s, exec_assemble 2 mask s, exec_assemble 3 mask s,
    fun j hj => ⟨?_, ?_, ?_⟩, hmod .tab, hmod .delete, hmod .ctrl, hmod .backslash, hmod .shift, hmod .question,
    hmod .esc, hmod .win1, hmod .win2, hmod .altL, code_layerOfBits _ _, hmod .space, hmod .altR, hmod .winR,
    hmod .compose, hmod .enter, assembleInto_letters_row3 mask s.cur, ?_⟩
  · exact assembleInto_letters_own 0 mask s.cur _ hj (by simp)
  · exact assembleInto_letters_own 1 mask s.cur _ hj rfl
  · exact assembleInto_letters_own 2 mask s.cur _ hj rfl
  · rw [exec_assemble, assembleInto_row3_xor_bit5]

/-! ### Rows in a row (R147) -/

/-- CUR after ASSEMBLE of the rows one after another, each with its own mask. -/
def assembleRows (m : Vector Mask 4) : List RowIdx → KeyboardState → KeyboardState
  | [], ks => ks
  | r :: rest, ks => assembleRows m rest (assembleInto r m[r] ks)

@[simp] theorem State.setCur_setCur (k k' : KeyboardState) (s : State) : (s.setCur k).setCur k' = s.setCur k' := rfl

/-- ASSEMBLEs in a row write CUR and nothing else. -/
theorem runAll_assemble (m : Vector Mask 4) (rows : List RowIdx) (s : State) :
    runAll (rows.map fun r => .assemble r m[r]) s = some (s.setCur (assembleRows m rows s.cur)) := by
  induction rows generalizing s with
  | nil => rfl
  | cons r rest ih =>
    rw [List.map_cons, runAll_cons (exec_assemble r m[r] s), ih, State.setCur_cur, State.setCur_setCur, assembleRows]

/-- A switch of one of the rows feeds the bit of its own row's mask, every other the bit it fed before. -/
theorem fedBy_assembleRows (m : Vector Mask 4) (rows : List RowIdx) (ks : KeyboardState) (k : SwitchIdx) :
    (assembleRows m rows ks).fedBy k =
      if switchRow k ∈ rows then if k = 41 then none else some (maskBit m[switchRow k] (switchCol k)) else ks.fedBy k := by
  induction rows generalizing ks with
  | nil => simp [assembleRows]
  | cons r rest ih =>
    rw [assembleRows, ih]
    by_cases hr : switchRow k = r
    · subst hr
      simp [fedBy_assembleInto_own]
    · simp [fedBy_assembleInto, hr]

/-- No two switches do the same (30_encoding.md R76). -/
theorem switchFunction_injective : Function.Injective switchFunction := by
  unfold Function.Injective
  decide

/-- Settles O28: the four rows are all rows, so every switch feeds its mask bit, and those bits are all of CUR. -/
theorem fourAssemblesDetermineCur : Obligations.FourAssemblesDetermineCur := by
  intro m s
  have hbits (ks : KeyboardState) (k : SwitchIdx) : (assembleRows m (List.finRange 4) ks).fedBy k =
      if k = 41 then none else some (maskBit m[switchRow k] (switchCol k)) := by
    rw [fedBy_assembleRows, if_pos (List.mem_finRange _)]
  refine ⟨_, runAll_assemble m (List.finRange 4) s, hbits s.cur, fun k k' h => switchFunction_injective h,
    fun s' => ⟨_, runAll_assemble m (List.finRange 4) s', ?_⟩⟩
  exact keyboardState_ext fun k => (hbits s'.cur k).trans (hbits s.cur k).symm

end Sys2Proof.Machine
end

section
/-! PROOFS. The family 43_layer_resolver.md: the layout entry RESOLVE decodes, the two keycodes of a special
key and the check that keeps them apart (R160 to R163; 00_scope.md R8). -/

namespace Sys2Proof.Machine

theorem layer_code_eq_zero_iff (l : Layer) : l.code = 0 ↔ l = .base := by
  cases l <;> decide

/-! ### The two keycodes of a special key (R163) -/

/-- The check has refused a question-key that is not remapped (00_scope.md R8). -/
theorem questionKcBase_ne_questionKcLayer (c : Config) : c.params.questionKcBase ≠ c.params.questionKcLayer := by
  intro hsame
  have haccepted := c.accepted
  simp [Params.check, ite_eq_iff, hsame] at haccepted

/-- The check has refused a backslash-key that is not remapped (00_scope.md R8). -/
theorem backslashKcBase_ne_backslashKcLayer (c : Config) : c.params.backslashKcBase ≠ c.params.backslashKcLayer := by
  intro hsame
  have haccepted := c.accepted
  simp [Params.check, ite_eq_iff, hsame] at haccepted

theorem resolveSpecialKey_eq_of_ne_base (p : Params) (key : SpecialKey) {l l' : Layer} (hl : l ≠ .base) (hl' : l' ≠ .base) :
    resolveSpecialKey p key l = resolveSpecialKey p key l' := by
  cases key with
  | question => simp [resolveSpecialKey, hl, hl']
  | backslash => simp [resolveSpecialKey, hl, hl']

/-- A configuration remaps both special keys off the base layer. -/
theorem resolveSpecialKey_ne_base (c : Config) (key : SpecialKey) {l : Layer} (hl : l ≠ .base) :
    resolveSpecialKey c.params key l ≠ resolveSpecialKey c.params key .base := by
  cases key with
  | question => simpa [resolveSpecialKey, hl] using (questionKcBase_ne_questionKcLayer c).symm
  | backslash => simpa [resolveSpecialKey, hl] using (backslashKcBase_ne_backslashKcLayer c).symm

/-- Settles O32: two layers off the base look up one keycode, and the check keeps it apart from the base keycode. -/
theorem specialKeysAreRemappedOffBase : Obligations.SpecialKeysAreRemappedOffBase := by
  intro key l l' s hl hl'
  refine ⟨_, _, _, _, exec_resolveSpecial key l s, ?_, exec_resolveSpecial key .base s, State.reply_answers _ s,
    State.reply_answers _ s, resolveSpecialKey_ne_base s.config key hl⟩
  rw [exec_resolveSpecial, resolveSpecialKey_eq_of_ne_base s.config.params key hl' hl]

/-! ### What the direct requests give back (R160, R163) -/

/-- Settles O30: the decoded layout entry is given back, and that is all RESOLVE does. -/
theorem resolveLooksUpTheLayout : Obligations.ResolveLooksUpTheLayout := by
  intro l i s
  simp only [exec_resolve, State.reply, entryAnswer, resolveLetter, decodeEntry, romRead]

/-- Settles O31: for either key, the base layer is the one whose code is 0. -/
theorem resolveSpecialDependsOnBaseOnly : Obligations.ResolveSpecialDependsOnBaseOnly := by
  intro key l s
  cases key with
  | question => simp only [exec_resolveSpecial, State.reply, resolveSpecialKey, layer_code_eq_zero_iff]
  | backslash => simp only [exec_resolveSpecial, State.reply, resolveSpecialKey, layer_code_eq_zero_iff]

end Sys2Proof.Machine
end

section
/-! PROOFS. The family 44_differ_emitter.md: the events of one edge and of all edges in order, the sink calls they make, and
what they leave pressed at the host (R180 to R196; 60_exceptions.md R240). -/

namespace Sys2Proof.Machine

open Sys2Proof.Claims

/-! ### What EMIT writes, reads and leaves unchanged (R180, R181, R186, R189) -/

/-- EMIT in the terms of the events it emits. -/
theorem State.emit_eq_emitted (s : State) :
    s.emit = { s with
      calls := s.calls ++ (emitted s).map Call.event
      hostSet := (emitted s).foldl (fun h e => hostAfterEvent e h) s.hostSet } := by
  rw [emitted_eq, State.emit_eq]

theorem State.emit_trace (s : State) : s.emit.trace = s.trace ++ emitted s := by
  rw [State.emit_eq_emitted, State.trace, filterMap_toEvent_events, State.trace]

theorem State.emit_hostSet (s : State) :
    s.emit.hostSet = (emitted s).foldl (fun h e => hostAfterEvent e h) s.hostSet := by
  rw [State.emit_eq_emitted]

/-- Settles O33: EMIT's events go to the trace and act on HOSTSET one by one. -/
theorem emitOnlyDrivesTheSink : Obligations.EmitOnlyDrivesTheSink := by
  intro s
  rw [exec_emit, State.emit_eq_emitted]
  rfl

/-- Settles O38: without an edge the difference is empty, and EMIT of no events is the identity. -/
theorem layerToggleEmitsNothing : Obligations.LayerToggleEmitsNothing := by
  intro s hletters hmodifiers
  have hnone : emitted s = [] := (emitted_eq s).trans (diffEvents_same s.config.params hletters hmodifiers)
  rw [exec_emit, State.emit_eq_emitted, hnone, List.map_nil, List.append_nil, List.foldl_nil]

/-- The difference depends on PREV's letters and modifiers alone (R181). -/
theorem diffEvents_congr_prev (p : Params) (cur : KeyboardState) {a b : KeyboardState} (hletters : a.letters = b.letters)
    (hmodifiers : a.modifiers = b.modifiers) : diffEvents p cur a = diffEvents p cur b := by
  rw [diffEvents, diffEvents, letterEvents_congr rfl hletters rfl]
  exact congrArg _ (List.flatMap_congr fun m _ => congrFun (modifierEvents_congr rfl hmodifiers rfl) m)

/-- Settles O39: the two runs emit the same events. -/
theorem emitIgnoresThePreviousLayer : Obligations.EmitIgnoresThePreviousLayer := by
  intro s l
  have hevents : diffEvents s.config.params s.cur { s.prev with layerSelector := l } =
      diffEvents s.config.params s.cur s.prev :=
    diffEvents_congr_prev s.config.params s.cur rfl rfl
  refine ⟨s.emit, exec_emit s, ?_⟩
  rw [exec_emit]
  simp only [State.emit_eq, hevents]

/-! ### The events of one edge (R181 to R185) -/

section OneEdge

variable {s : State} {i : LetterIdx} {m : Modifier}

/-- TAP of a letter's entry, spelled out by its chord flags. -/
theorem tapEvents_resolveLetter (s : State) (i : LetterIdx) :
    tapEvents s.config.params (resolveLetter s.config.params s.cur.layerSelector i) = letterTap s i := by
  change tapEvents s.config.params ⟨curKeycode s i, curCtrl s i, curShift s i⟩ = _
  rw [letterTap]
  cases curCtrl s i <;> cases curShift s i <;> rfl

theorem isChord_resolveLetter (s : State) (i : LetterIdx) :
    isChord (resolveLetter s.config.params s.cur.layerSelector i) = (curCtrl s i || curShift s i) := rfl

theorem modKeycode_eq_boundKeycode (p : Params) (m : Modifier) (l : Layer) : modKeycode p m l = boundKeycode p l m := by
  cases m <;> rfl

theorem letterEvents_macro (hedge : s.cur.letters[i] ≠ s.prev.letters[i])
    (hmacro : curCtrl s i = true ∨ curShift s i = true) :
    letterEvents s.config.params s.cur s.prev i = letterTap s i := by
  rw [letterEvents_chord _ hedge (by rwa [isChord_resolveLetter, Bool.or_eq_true]), tapEvents_resolveLetter]

theorem letterEvents_plain (hedge : s.cur.letters[i] ≠ s.prev.letters[i]) (hctrl : curCtrl s i = false)
    (hshift : curShift s i = false) :
    letterEvents s.config.params s.cur s.prev i = [pressOrRelease s.cur.letters[i] (curKeycode s i)] := by
  rw [letterEvents_ordinary _ hedge (by rw [isChord_resolveLetter, hctrl, hshift, Bool.or_false])]
  rfl

/-- Where one element alone has a nonempty image, the concatenation is that image. -/
theorem flatMap_eq_of_only {α β : Type} {f : α → List β} {l : List α} {a : α} (hnodup : l.Nodup) (ha : a ∈ l)
    (honly : ∀ b, b ≠ a → f b = []) : l.flatMap f = f a := by
  obtain ⟨before, after, rfl⟩ := List.append_of_mem ha
  obtain ⟨-, hafter, hdisjoint⟩ := List.nodup_append.mp hnodup
  have hnoneBefore : before.flatMap f = [] := List.flatMap_eq_nil_iff.mpr fun b hb =>
    honly b (hdisjoint b hb a List.mem_cons_self)
  have hnoneAfter : after.flatMap f = [] := List.flatMap_eq_nil_iff.mpr fun b hb =>
    honly b fun hba => (List.nodup_cons.mp hafter).1 (hba ▸ hb)
  rw [List.flatMap_append, List.flatMap_cons, hnoneBefore, hnoneAfter, List.nil_append, List.append_nil]

theorem allModifiers_nodup : allModifiers.Nodup := by decide

theorem mem_allModifiers (m : Modifier) : m ∈ allModifiers := by cases m <;> decide

theorem emitted_of_onlyLetterDiffers (h : OnlyLetterDiffers s i) :
    emitted s = letterEvents s.config.params s.cur s.prev i := by
  obtain ⟨-, hothers, hmodifiers⟩ := h
  have hm : allModifiers.flatMap (modifierEvents s.config.params s.cur s.prev) = [] :=
    List.flatMap_eq_nil_iff.mpr fun m _ => modifierEvents_noEdge _ (by rw [KeyboardState.modifier, hmodifiers]; rfl)
  rw [emitted_eq, diffEvents, hm, List.append_nil]
  exact flatMap_eq_of_only (List.nodup_finRange 30) (List.mem_finRange i) fun j hj => letterEvents_noEdge _ (hothers j hj)

theorem emitted_of_onlyModifierDiffers (h : OnlyModifierDiffers s m) :
    emitted s = modifierEvents s.config.params s.cur s.prev m := by
  obtain ⟨-, hothers, hletters⟩ := h
  have hl : (List.finRange 30).flatMap (letterEvents s.config.params s.cur s.prev) = [] :=
    List.flatMap_eq_nil_iff.mpr fun i _ => letterEvents_noEdge _ (by rw [hletters])
  rw [emitted_eq, diffEvents, hl, List.nil_append]
  exact flatMap_eq_of_only allModifiers_nodup (mem_allModifiers m) fun n hn => modifierEvents_noEdge _ (hothers n hn)

end OneEdge

/-- Settles O34: the letter's events are the only ones. -/
theorem ordinaryLetterEdgeIsOneEvent : Obligations.OrdinaryLetterEdgeIsOneEvent := by
  intro s i h hctrl hshift
  rw [emitted_of_onlyLetterDiffers h, letterEvents_plain h.1 hctrl hshift]
  rfl

/-- Settles O35: the letter's events are the only ones, whichever way its bit changed. -/
theorem macroLetterEdgeIsATap : Obligations.MacroLetterEdgeIsATap := by
  intro s i h hmacro
  rw [emitted_of_onlyLetterDiffers h, letterEvents_macro h.1 hmacro]
  rfl

/-- Settles O36: the modifier's event is the only one. -/
theorem modifierEdgeIsOneEvent : Obligations.ModifierEdgeIsOneEvent := by
  intro s m h
  rw [emitted_of_onlyModifierDiffers h, modifierEvents_edge _ h.1, modKeycode_eq_boundKeycode]
  rfl

/-! ### The order of the edges (R180, R184, R188) -/

/-- A concatenation over rising indexes splits at any index, into the images below it and those from it on. -/
theorem flatMap_split_at {β : Type} {k : Nat} {l : List (Fin k)} {f low high : Fin k → List β} (n : Nat)
    (hsorted : l.Pairwise (· < ·)) (hlow : ∀ i : Fin k, i.val < n → low i = f i ∧ high i = [])
    (hhigh : ∀ i : Fin k, n ≤ i.val → low i = [] ∧ high i = f i) : l.flatMap f = l.flatMap low ++ l.flatMap high := by
  induction l with
  | nil => rfl
  | cons i rest ih =>
    obtain ⟨hi, hrest⟩ := List.pairwise_cons.mp hsorted
    simp only [List.flatMap_cons, ih hrest]
    by_cases hn : i.val < n
    · rw [(hlow i hn).1, (hlow i hn).2, List.nil_append, List.append_assoc]
    · have hnone : rest.flatMap low = [] := List.flatMap_eq_nil_iff.mpr fun j hj =>
        (hhigh j ((Nat.le_of_not_lt hn).trans (Nat.le_of_lt (hi j hj)))).1
      rw [hnone, (hhigh i (Nat.le_of_not_lt hn)).1, (hhigh i (Nat.le_of_not_lt hn)).2, List.nil_append, List.nil_append,
        List.nil_append]

/-- A letter's events depend on its own two bits and CUR's layer alone (R181). -/
theorem letterEvents_congr_bit {p : Params} {a a' b b' : KeyboardState} {i : LetterIdx} (hcur : a.letters[i] = a'.letters[i])
    (hprev : b.letters[i] = b'.letters[i]) (hlayer : a.layerSelector = a'.layerSelector) :
    letterEvents p a b i = letterEvents p a' b' i := by
  rw [letterEvents, letterEvents, hcur, hprev, hlayer]

/-- A modifier's events depend on its own two bits and CUR's layer alone (R184, R185). -/
theorem modifierEvents_congr_bit {p : Params} {a a' b b' : KeyboardState} {m : Modifier} (hcur : a.modifier m = a'.modifier m)
    (hprev : b.modifier m = b'.modifier m) (hlayer : a.layerSelector = a'.layerSelector) :
    modifierEvents p a b m = modifierEvents p a' b' m := by
  rw [modifierEvents, modifierEvents, hcur, hprev, hlayer]

section Order

variable (p : Params) (cur prev : KeyboardState) (n : Nat)

theorem lettersUpTo_layerSelector : (lettersUpTo n cur prev).layerSelector = cur.layerSelector := by rw [lettersUpTo]

theorem lettersUpTo_modifier (m : Modifier) : (lettersUpTo n cur prev).modifier m = prev.modifier m := by
  rw [lettersUpTo, KeyboardState.modifier, KeyboardState.modifier]

theorem modifiersUpTo_layerSelector : (modifiersUpTo n cur prev).layerSelector = cur.layerSelector := by rw [modifiersUpTo]

theorem modifiersUpTo_letter (i : LetterIdx) : (modifiersUpTo n cur prev).letters[i] = cur.letters[i] := by
  rw [modifiersUpTo]

theorem lettersUpTo_letter (i : LetterIdx) :
    (lettersUpTo n cur prev).letters[i] = if i.val < n then cur.letters[i] else prev.letters[i] := by
  simp [lettersUpTo]

theorem modifiersUpTo_modifier (m : Fin 15) :
    (modifiersUpTo n cur prev).modifier (modifierOf m) =
      if m.val < n then cur.modifier (modifierOf m) else prev.modifier (modifierOf m) := by
  simp [modifiersUpTo, KeyboardState.modifier]

theorem flatMap_letterEvents_split :
    (List.finRange 30).flatMap (letterEvents p cur prev) =
      (List.finRange 30).flatMap (letterEvents p (lettersUpTo n cur prev) prev) ++
        (List.finRange 30).flatMap (letterEvents p cur (lettersUpTo n cur prev)) := by
  refine flatMap_split_at n (List.sortedLT_finRange 30).pairwise (fun i hi => ?_) fun i hi => ?_
  · have hbit : (lettersUpTo n cur prev).letters[i] = cur.letters[i] := by rw [lettersUpTo_letter, if_pos hi]
    exact ⟨letterEvents_congr_bit hbit rfl (lettersUpTo_layerSelector cur prev n), letterEvents_noEdge p hbit.symm⟩
  · have hbit : (lettersUpTo n cur prev).letters[i] = prev.letters[i] := by
      rw [lettersUpTo_letter, if_neg (Nat.not_lt.mpr hi)]
    exact ⟨letterEvents_noEdge p hbit, letterEvents_congr_bit rfl hbit rfl⟩

theorem flatMap_modifierEvents_split :
    allModifiers.flatMap (modifierEvents p cur prev) =
      allModifiers.flatMap (modifierEvents p (modifiersUpTo n cur prev) prev) ++
        allModifiers.flatMap (modifierEvents p cur (modifiersUpTo n cur prev)) := by
  simp only [allModifiers_eq, List.flatMap_map]
  refine flatMap_split_at n (List.sortedLT_finRange 15).pairwise (fun m hm => ?_) fun m hm => ?_
  · have hbit : (modifiersUpTo n cur prev).modifier (modifierOf m) = cur.modifier (modifierOf m) := by
      rw [modifiersUpTo_modifier, if_pos hm]
    exact ⟨modifierEvents_congr_bit hbit rfl (modifiersUpTo_layerSelector cur prev n), modifierEvents_noEdge p hbit.symm⟩
  · have hbit : (modifiersUpTo n cur prev).modifier (modifierOf m) = prev.modifier (modifierOf m) := by
      rw [modifiersUpTo_modifier, if_neg (Nat.not_lt.mpr hm)]
    exact ⟨modifierEvents_noEdge p hbit, modifierEvents_congr_bit rfl hbit rfl⟩

/-- The letters below n come before every other edge. -/
theorem diffEvents_split_letters :
    diffEvents p cur prev = diffEvents p (lettersUpTo n cur prev) prev ++ diffEvents p cur (lettersUpTo n cur prev) := by
  have hnone : allModifiers.flatMap (modifierEvents p (lettersUpTo n cur prev) prev) = [] :=
    List.flatMap_eq_nil_iff.mpr fun m _ => modifierEvents_noEdge p (lettersUpTo_modifier cur prev n m)
  have hsame : modifierEvents p cur (lettersUpTo n cur prev) = modifierEvents p cur prev :=
    funext fun m => modifierEvents_congr_bit rfl (lettersUpTo_modifier cur prev n m) rfl
  simp only [diffEvents, hnone, hsame, List.append_nil, flatMap_letterEvents_split p cur prev n, List.append_assoc]

/-- All letters and the modifiers below n come before every other edge. -/
theorem diffEvents_split_modifiers :
    diffEvents p cur prev = diffEvents p (modifiersUpTo n cur prev) prev ++ diffEvents p cur (modifiersUpTo n cur prev) := by
  have hnone : (List.finRange 30).flatMap (letterEvents p cur (modifiersUpTo n cur prev)) = [] :=
    List.flatMap_eq_nil_iff.mpr fun i _ => letterEvents_noEdge p (modifiersUpTo_letter cur prev n i).symm
  have hsame : letterEvents p (modifiersUpTo n cur prev) prev = letterEvents p cur prev :=
    funext fun i => letterEvents_congr_bit (modifiersUpTo_letter cur prev n i) rfl (modifiersUpTo_layerSelector cur prev n)
  simp only [diffEvents, hnone, hsame, List.nil_append, flatMap_modifierEvents_split p cur prev n, List.append_assoc]

end Order

/-- Settles O37: the events split at every letter and at every modifier. -/
theorem edgesAreEmittedInOrder : Obligations.EdgesAreEmittedInOrder := by
  intro s n
  simp only [emitted_eq]
  exact ⟨diffEvents_split_letters s.config.params s.cur s.prev n, diffEvents_split_modifiers s.config.params s.cur s.prev n⟩

/-! ### How many sink calls and holds (R196) -/

theorem sinkCalls_append (a b : List Event) : sinkCalls (a ++ b) = sinkCalls a + sinkCalls b := by
  rw [sinkCalls, List.flatMap_append, List.length_append, sinkCalls, sinkCalls]

theorem sinkCalls_flatMap {α : Type} (f : α → List Event) (l : List α) :
    sinkCalls (l.flatMap f) = (l.map fun a => sinkCalls (f a)).sum := by
  induction l with
  | nil => rfl
  | cons a rest ih => rw [List.flatMap_cons, sinkCalls_append, ih, List.map_cons, List.sum_cons]

theorem sinkCalls_pressOrRelease (b : Bool) (k : Keycode) : sinkCalls [pressOrRelease b k] = 1 := by
  cases b <;> rfl

theorem count_hold_pressOrRelease (b : Bool) (k : Keycode) : [pressOrRelease b k].count .hold = 0 := by
  cases b <;> rfl

theorem sinkCalls_letterTap (s : State) (i : LetterIdx) :
    sinkCalls (letterTap s i) = 2 + 2 * ((curCtrl s i).toNat + (curShift s i).toNat) := by
  rw [letterTap]
  cases curCtrl s i <;> cases curShift s i <;> rfl

theorem count_hold_letterTap (s : State) (i : LetterIdx) : (letterTap s i).count .hold = 1 := by
  rw [letterTap]
  cases curCtrl s i <;> cases curShift s i <;> rfl

/-- A letter without an edge, with an edge under an ordinary entry, or with an edge under a chord entry (R180 to R183). -/
theorem letterEvents_cases (s : State) (i : LetterIdx) :
    (s.cur.letters[i] = s.prev.letters[i] ∧ letterEvents s.config.params s.cur s.prev i = []) ∨
    (s.cur.letters[i] ≠ s.prev.letters[i] ∧ (curCtrl s i = false ∧ curShift s i = false) ∧
      letterEvents s.config.params s.cur s.prev i = [pressOrRelease s.cur.letters[i] (curKeycode s i)]) ∨
    (s.cur.letters[i] ≠ s.prev.letters[i] ∧ (curCtrl s i || curShift s i) = true ∧
      letterEvents s.config.params s.cur s.prev i = letterTap s i) := by
  by_cases hedge : s.cur.letters[i] = s.prev.letters[i]
  · exact .inl ⟨hedge, letterEvents_noEdge _ hedge⟩
  · cases hmacro : curCtrl s i || curShift s i with
    | false =>
      have hflags := Bool.or_eq_false_iff.mp hmacro
      exact .inr (.inl ⟨hedge, hflags, letterEvents_plain hedge hflags.1 hflags.2⟩)
    | true => exact .inr (.inr ⟨hedge, rfl, letterEvents_macro hedge (Bool.or_eq_true_iff.mp hmacro)⟩)

theorem sinkCalls_letterEvents (s : State) (i : LetterIdx) :
    sinkCalls (letterEvents s.config.params s.cur s.prev i) = letterCallCount s i := by
  obtain ⟨hedge, he⟩ | ⟨hedge, hflags, he⟩ | ⟨hedge, hmacro, he⟩ := letterEvents_cases s i
  · rw [he, letterCallCount, if_pos hedge]
    rfl
  · rw [he, letterCallCount, if_neg hedge, if_pos hflags, sinkCalls_pressOrRelease]
  · rw [he, letterCallCount, if_neg hedge, if_neg (by rw [← Bool.or_eq_false_iff, hmacro]; decide), sinkCalls_letterTap]

theorem count_hold_letterEvents (s : State) (i : LetterIdx) :
    (letterEvents s.config.params s.cur s.prev i).count .hold =
      (s.cur.letters[i] != s.prev.letters[i] && (curCtrl s i || curShift s i)).toNat := by
  obtain ⟨hedge, he⟩ | ⟨hedge, ⟨hctrl, hshift⟩, he⟩ | ⟨hedge, hmacro, he⟩ := letterEvents_cases s i
  · rw [he, hedge, bne_self_eq_false]
    rfl
  · rw [he, count_hold_pressOrRelease, hctrl, hshift, Bool.or_false, Bool.and_false]
    rfl
  · rw [he, count_hold_letterTap, hmacro, bne_iff_ne.mpr hedge]
    rfl

theorem sinkCalls_modifierEvents (p : Params) (cur prev : KeyboardState) (m : Modifier) :
    sinkCalls (modifierEvents p cur prev m) = (cur.modifier m != prev.modifier m).toNat := by
  by_cases hedge : cur.modifier m = prev.modifier m
  · rw [modifierEvents_noEdge p hedge, hedge, bne_self_eq_false]
    rfl
  · rw [modifierEvents_edge p hedge, sinkCalls_pressOrRelease, bne_iff_ne.mpr hedge]
    rfl

theorem count_hold_modifierEvents (p : Params) (cur prev : KeyboardState) (m : Modifier) :
    (modifierEvents p cur prev m).count .hold = 0 := by
  by_cases hedge : cur.modifier m = prev.modifier m
  · rw [modifierEvents_noEdge p hedge]
    rfl
  · rw [modifierEvents_edge p hedge, count_hold_pressOrRelease]

theorem sum_map_toNat_eq_countP {α : Type} (q : α → Bool) (l : List α) : (l.map fun a => (q a).toNat).sum = l.countP q := by
  induction l with
  | nil => rfl
  | cons a rest ih =>
    rw [List.map_cons, List.sum_cons, ih, List.countP_cons, Nat.add_comm]
    cases q a <;> rfl

/-- Settles O40: both counts are added up over the letters and the modifiers. -/
theorem sinkCallsPerEmit : Obligations.SinkCallsPerEmit := by
  intro s
  rw [emitted_eq, diffEvents]
  constructor
  · rw [sinkCalls_append, sinkCalls_flatMap, sinkCalls_flatMap]
    simp only [sinkCalls_letterEvents, sinkCalls_modifierEvents, sum_map_toNat_eq_countP]
  · have hmodifiers : (allModifiers.flatMap (modifierEvents s.config.params s.cur s.prev)).count .hold = 0 := by
      simp [List.count_flatMap, Function.comp_def, count_hold_modifierEvents]
    rw [List.count_append, hmodifiers, Nat.add_zero, List.count_flatMap]
    simp only [Function.comp_def, count_hold_letterEvents, sum_map_toNat_eq_countP]

/-! ### What a tap leaves at the host (R182; 60_exceptions.md R240) -/

/-- Every keycode that a tap presses it releases later, and it presses none once it has begun to release. -/
theorem mem_foldl_tapSequence (ctrl shift k : Keycode) (cc sc : Bool) (host : List Keycode) (x : Keycode) :
    x ∈ (tapSequence ctrl shift k cc sc).foldl (fun h e => hostAfterEvent e h) host ↔
      x ∈ host ∧ x ≠ k ∧ (cc = true → x ≠ ctrl) ∧ (sc = true → x ≠ shift) := by
  cases cc <;> cases sc
  all_goals
    simp only [tapSequence, List.foldl_cons, List.foldl_nil, hostAfterEvent, mem_hostErase, mem_hostInsert]
    tauto

/-- Settles O42: the tap is all that EMIT does to HOSTSET. -/
theorem macroTapLeavesNothingPressed : Obligations.MacroTapLeavesNothingPressed := by
  intro s i h hmacro
  refine ⟨s.emit, exec_emit s, fun x => ?_⟩
  rw [State.emit_hostSet, macroLetterEdgeIsATap s i h hmacro]
  exact mem_foldl_tapSequence _ _ _ _ _ s.hostSet x

/-! ### A key held over one commit and then released (R190, R191, R193) -/

/-- EMIT, COMMIT and EMIT of a next CUR: the events of the two differences, one after the other. -/
theorem emit_commit_emit (s : State) (released : KeyboardState) :
    ∃ t u v, exec .emit s = .next t ∧ exec .commit t = .next u ∧ exec .emit { u with cur := released } = .next v ∧
      v.trace = s.trace ++ (emitted s ++ emitted { s with cur := released, prev := s.cur }) ∧
      v.hostSet = (emitted s ++ emitted { s with cur := released, prev := s.cur }).foldl
        (fun h e => hostAfterEvent e h) s.hostSet := by
  have hsecond : emitted ((s.emit.setPrev s.emit.cur).setCur released) = emitted { s with cur := released, prev := s.cur } := by
    simp [emitted_eq]
  refine ⟨_, _, _, exec_emit s, exec_commit s.emit, exec_emit ((s.emit.setPrev s.emit.cur).setCur released), ?_, ?_⟩
  · rw [State.emit_trace, hsecond, State.trace_setCur, State.trace_setPrev, State.emit_trace, List.append_assoc]
  · rw [State.emit_hostSet, hsecond, State.setCur_hostSet, State.setPrev_hostSet, State.emit_hostSet, List.foldl_append]

/-- Under one layer a letter's tap is one and the same. -/
theorem letterTap_congr {s t : State} (i : LetterIdx) (hconfig : t.config = s.config)
    (hlayer : t.cur.layerSelector = s.cur.layerSelector) : letterTap t i = letterTap s i := by
  simp only [letterTap, curKeycode, curCtrl, curShift, curEntry, hconfig, hlayer]

/-- Settles O41: each of the two edges is a tap, looked up under its own layer. -/
theorem macroTapsOnBothEdges : Obligations.MacroTapsOnBothEdges := by
  intro s i released h hmacro h' hmacro'
  obtain ⟨t, u, v, ht, hu, hv, htrace, -⟩ := emit_commit_emit s released
  refine ⟨t, u, v, ht, hu, hv, ?_, fun hlayer => letterTap_congr i rfl hlayer⟩
  rw [htrace, macroLetterEdgeIsATap s i h hmacro, macroLetterEdgeIsATap _ i h' hmacro', List.append_assoc]
  rfl

/-- After a press and a release the pressed keycode stays at the host exactly when the released one is another. -/
theorem mem_foldl_press_release (k k' : Keycode) (host : List Keycode) :
    k ∈ [Event.press k, Event.release k'].foldl (fun h e => hostAfterEvent e h) host ↔ k' ≠ k := by
  simp [hostAfterEvent, eq_comm]

/-- Settles O43: the release is of another keycode than the press. -/
theorem layerChangeLeavesKeycodePressed : Obligations.LayerChangeLeavesKeycodePressed := by
  intro s i released h hset hctrl hshift h' hctrl' hshift' hne
  have hclear : released.letters[i] = false := by simpa [hset] using h'.1
  have hpress : emitted s = [.press (curKeycode s i)] := by
    rw [ordinaryLetterEdgeIsOneEvent s i h hctrl hshift, if_pos hset]
  have hrelease : emitted { s with cur := released, prev := s.cur } = [.release (curKeycode { s with cur := released } i)] := by
    rw [ordinaryLetterEdgeIsOneEvent _ i h' hctrl' hshift', if_neg (by simp [hclear])]
    rfl
  obtain ⟨t, u, v, ht, hu, hv, htrace, hhost⟩ := emit_commit_emit s released
  rw [hpress, hrelease] at htrace hhost
  exact ⟨t, u, v, ht, hu, hv, htrace, hhost ▸ (mem_foldl_press_release _ _ _).mpr hne⟩

/-- A special key has one keycode under two layers exactly when both or neither are the base (R163; 00_scope.md R8). -/
theorem resolveSpecialKey_eq_iff (c : Config) (key : SpecialKey) (l l' : Layer) :
    resolveSpecialKey c.params key l' = resolveSpecialKey c.params key l ↔ (l = .base ↔ l' = .base) := by
  by_cases hl : l = .base
  · by_cases hl' : l' = .base
    · simp [hl, hl']
    · simp [hl, hl', resolveSpecialKey_ne_base c key hl']
  · by_cases hl' : l' = .base
    · simp [hl, hl', (resolveSpecialKey_ne_base c key hl).symm]
    · simp [hl, hl', resolveSpecialKey_eq_of_ne_base c.params key hl' hl]

theorem boundKeycode_special_eq_iff (c : Config) {m : Modifier} (hm : m = .question ∨ m = .backslash) (l l' : Layer) :
    boundKeycode c.params l' m = boundKeycode c.params l m ↔ (l = .base ↔ l' = .base) := by
  obtain rfl | rfl := hm
  · exact resolveSpecialKey_eq_iff c .question l l'
  · exact resolveSpecialKey_eq_iff c .backslash l l'

/-- Settles O44: the release is of another keycode than the press exactly when one of the two layers is the base. -/
theorem specialKeyAcrossLayerChange : Obligations.SpecialKeyAcrossLayerChange := by
  intro s m released hm h hset h'
  have hclear : released.modifier m = false := by simpa [hset] using h'.1
  have hpress : emitted s = [.press (boundKeycode s.config.params s.cur.layerSelector m)] := by
    rw [modifierEdgeIsOneEvent s m h, if_pos hset]
  have hrelease : emitted { s with cur := released, prev := s.cur } =
      [.release (boundKeycode s.config.params released.layerSelector m)] := by
    rw [modifierEdgeIsOneEvent _ m h', if_neg (by simp [hclear])]
  obtain ⟨t, u, v, ht, hu, hv, htrace, hhost⟩ := emit_commit_emit s released
  rw [hpress, hrelease] at htrace hhost
  refine ⟨t, u, v, ht, hu, hv, htrace, ?_⟩
  rw [hhost, List.singleton_append, mem_foldl_press_release, not_ne_iff, ne_eq, boundKeycode_special_eq_iff s.config hm]
  split
  · next hsame => exact ⟨hsame, hsame⟩
  · next hother => exact hother

end Sys2Proof.Machine
end

section
/-! PROOFS. The family 45_scan_cycle.md: direct requests and the sequencer, which run the same operations, CYCLE as the six of
them in order, and what one cycle leaves (R210 to R220). -/

namespace Sys2Proof.Machine

open Sys2Proof.Claims

/-! ### Direct requests (R211, R220) -/

/-- Settles O9: a word decodes to an operation or is refused. -/
theorem stepRunsTheDecodedRequest : Obligations.StepRunsTheDecodedRequest :=
  fun _ _ _ hcons => ⟨fun _ hdecode => step_request hcons hdecode, fun _ hdecode => step_illegal hcons hdecode⟩

theorem State.cycle_phase (s : State) : s.cycle.phase = .scan 0 := by rw [State.cycle_eq, State.setPhase_phase]

/-- Settles O12: CYCLE asks for SCAN0 and ends there. -/
theorem directCycleOnlyAtScan0 : Obligations.DirectCycleOnlyAtScan0 :=
  fun s => ⟨fun hphase => ⟨s.cycle, exec_cycle hphase, s.cycle_phase⟩, exec_cycle_refused⟩

/-- Settles O47: CUR and PREV do not differ after COMMIT. -/
theorem commitCopiesCurToPrev : Obligations.CommitCopiesCurToPrev :=
  fun s => ⟨exec_commit s, layerToggleEmitsNothing { s with prev := s.cur } rfl rfl⟩

section Inert

variable {f : State → State}

/-- OBSERVE as a direct request does not see an update that commutes with the answer. -/
theorem Inert.exec_observe (hf : Inert f) (hreply : ∀ a s, (f s).reply a = f (s.reply a)) (k : SwitchIdx) (raw : Bool)
    (s : State) : ∃ u, exec (.observe k raw) s = .next u ∧ exec (.observe k raw) (f s) = .next (f u) := by
  have hread' := hf.drawReading s
  cases hread : s.drawReading with
  | mk now t =>
    have hobs' := hf.observe k raw now t
    cases hobs : t.observe k raw now with
    | mk b v =>
      rw [hread] at hread'
      rw [hobs] at hobs'
      exact ⟨v.reply (.stable b), Machine.exec_observe hread hobs, hreply _ v ▸ Machine.exec_observe hread' hobs'⟩

/-- SCAN_ROW as a direct request does not see an update that commutes with the answer. -/
theorem Inert.exec_scanRow (hf : Inert f) (hreply : ∀ a s, (f s).reply a = f (s.reply a)) (r : RowIdx) (s : State) :
    ∃ u, exec (.scanRow r) s = .next u ∧ exec (.scanRow r) (f s) = .next (f u) := by
  have hread' := hf.drawReading s
  cases hread : s.drawReading with
  | mk now t =>
    have hscan' := hf.scanRow r now t
    cases hscan : t.scanRow r now with
    | mk mask v =>
      rw [hread] at hread'
      rw [hscan] at hscan'
      exact ⟨v.reply (.mask mask), Machine.exec_scanRow hread hscan, hreply _ v ▸ Machine.exec_scanRow hread' hscan'⟩

end Inert

/-- Every direct request but CYCLE goes on, and does the same at another PHASE. -/
theorem exec_setPhase {i : Instr} (hi : i ≠ .cycle) (p : Phase) (s : State) :
    ∃ u, exec i s = .next u ∧ exec i (s.setPhase p) = .next (u.setPhase p) := by
  cases i with
  | observe k raw => exact (inert_setPhase p).exec_observe (fun _ _ => rfl) k raw s
  | scanRow r => exact (inert_setPhase p).exec_scanRow (fun _ _ => rfl) r s
  | assemble r mask => exact ⟨_, exec_assemble r mask s, exec_assemble r mask (s.setPhase p)⟩
  | resolve l j => exact ⟨_, exec_resolve l j s, exec_resolve l j (s.setPhase p)⟩
  | resolveSpecial key l => exact ⟨_, exec_resolveSpecial key l s, exec_resolveSpecial key l (s.setPhase p)⟩
  | emit => exact ⟨_, exec_emit s, congrArg Host.Outcome.next (State.emit_setPhase p s)⟩
  | commit => exact ⟨_, exec_commit s, exec_commit (s.setPhase p)⟩
  | cycle => exact absurd rfl hi

/-- Settles O13: operation by operation, none but CYCLE sees PHASE. -/
theorem directRequestsIgnorePhase : Obligations.DirectRequestsIgnorePhase := by
  intro i s p hi
  obtain ⟨u, hexec, hexec'⟩ := exec_setPhase hi p s
  exact ⟨u, hexec, exec_phase hexec, hexec'⟩

/-! ### SCAN_ROW and ASSEMBLE in any order (R214) -/

/-- The Debounce Gate and the Matrix Sampler do not see what becomes of CUR. The function is any, so that comparing two states
unfolds no ASSEMBLE. -/
theorem inert_mapCur (g : KeyboardState → KeyboardState) : Inert fun s => s.setCur (g s.cur) := by
  constructor <;> intros <;> rfl

theorem State.reply_mapCur (g : KeyboardState → KeyboardState) (a : Answer) (s : State) :
    (s.setCur (g s.cur)).reply a = (s.reply a).setCur (g (s.reply a).cur) := rfl

/-- SCAN_ROW does the same after an ASSEMBLE, whose work its own leaves alone. -/
theorem exec_scanRow_assemble (r r' : RowIdx) (mask : Mask) (s : State) :
    ∃ u, exec (.scanRow r') s = .next u ∧ exec (.scanRow r') (s.assemble r mask) = .next (u.assemble r mask) :=
  (inert_mapCur (assembleInto r mask)).exec_scanRow (State.reply_mapCur (assembleInto r mask)) r' s

theorem runAll_assemble_scanRow (r r' : RowIdx) (mask : Mask) (is : List Instr) (s : State) :
    runAll (.assemble r mask :: .scanRow r' :: is) s = runAll (.scanRow r' :: .assemble r mask :: is) s := by
  obtain ⟨u, hscan, hscan'⟩ := exec_scanRow_assemble r r' mask s
  have hassemble (t : State) : exec (.assemble r mask) t = .next (t.assemble r mask) := exec_assemble r mask t
  rw [runAll_cons (hassemble s), runAll_cons hscan', runAll_cons hscan, runAll_cons (hassemble u)]

/-- Requests that run alike in every state do so after any first request. -/
theorem runAll_cons_congr (i : Instr) {is js : List Instr} (h : ∀ s, runAll is s = runAll js s) (s : State) :
    runAll (i :: is) s = runAll (i :: js) s := by
  simp only [runAll, h]

/-- An ASSEMBLE may wait until any rows are scanned. -/
theorem runAll_assemble_scanRows (r : RowIdx) (mask : Mask) (rows : List RowIdx) (is : List Instr) (s : State) :
    runAll (.assemble r mask :: (rows.map .scanRow ++ is)) s = runAll (rows.map .scanRow ++ .assemble r mask :: is) s := by
  induction rows generalizing s with
  | nil => rfl
  | cons r' rest ih =>
    rw [List.map_cons, List.cons_append, runAll_assemble_scanRow]
    exact runAll_cons_congr (.scanRow r') ih s

/-- Rows scanned and assembled one after another may all be scanned first. -/
theorem runAll_rows (m : Vector Mask 4) (rows : List RowIdx) (s : State) :
    runAll (rows.flatMap fun r => [.scanRow r, .assemble r m[r]]) s =
      runAll (rows.map .scanRow ++ rows.map fun r => .assemble r m[r]) s := by
  induction rows generalizing s with
  | nil => rfl
  | cons r rest ih =>
    rw [List.flatMap_cons, List.map_cons, List.map_cons, List.cons_append, List.cons_append, List.cons_append, List.nil_append]
    refine runAll_cons_congr (.scanRow r) (fun t => ?_) s
    rw [runAll_cons_congr (.assemble r m[r]) ih, runAll_assemble_scanRows]

/-- Requests other than CYCLE all go on. -/
theorem runAll_goesOn {is : List Instr} (h : .cycle ∉ is) (s : State) : ∃ u, runAll is s = some u := by
  induction is generalizing s with
  | nil => exact ⟨s, rfl⟩
  | cons i rest ih =>
    rw [List.mem_cons, not_or] at h
    obtain ⟨hi, hrest⟩ := h
    obtain ⟨u, hexec, -⟩ := exec_setPhase (Ne.symm hi) s.phase s
    rw [runAll_cons hexec]
    exact ih hrest u

/-- Settles O29: an ASSEMBLE is moved behind each later SCAN_ROW. -/
theorem assembleCommutesWithScanRow : Obligations.AssembleCommutesWithScanRow := by
  refine ⟨fun r r' mask s => runAll_assemble_scanRow r r' mask [] s, fun m s => ?_⟩
  obtain ⟨u, hrun⟩ := runAll_goesOn (is := (List.finRange 4).flatMap fun r => [.scanRow r, .assemble r m[r]]) (by simp) s
  exact ⟨u, hrun, (runAll_rows m (List.finRange 4) s).symm.trans hrun⟩

/-! ### The sequencer (R215, R216) -/

/-- At SCANr a step reads the clock, scans row r and assembles its mask. -/
theorem State.sequencerStep_scan {s : State} {r : RowIdx} (h : s.phase = .scan r) :
    s.sequencerStep = (s.scanAssemble r).setPhase (successor (.scan r)) := by
  rw [State.sequencerStep, h, nextPhase_eq_successor]

theorem State.sequencerStep_emit {s : State} (h : s.phase = .emit) : s.sequencerStep = s.emit.setPhase .commit := by
  rw [State.sequencerStep, h, nextPhase_eq_successor]
  rfl

theorem State.sequencerStep_commit {s : State} (h : s.phase = .commit) :
    s.sequencerStep = s.commit.setPhase (.scan 0) := by
  rw [State.sequencerStep, h, nextPhase_eq_successor]
  rfl

/-- One row of the cycle in its three operations. -/
theorem State.scanAssemble_of_scanRow {r : RowIdx} {s t u : State} {now : Nat} {mask : Mask} (hread : s.callNow = (now, t))
    (hscan : t.scanRow r now = (mask, u)) : s.scanAssemble r = u.assemble r mask := by
  rw [State.scanAssemble, hread]
  dsimp only
  rw [hscan]

/-- Settles O10: the phase names the operation, and SCAN_ROW as a request scans with its reading as the row of the cycle
does. -/
theorem sequencerRunsPhaseOperation : Obligations.SequencerRunsPhaseOperation := by
  intro s hreq
  refine ⟨fun r hphase => ?_, fun hphase => ⟨s.emit, exec_emit s, ?_⟩, fun hphase => ⟨s.commit, exec_commit s, ?_⟩⟩
  · obtain ⟨now, e, hread, -⟩ := s.callNow_spec
    obtain ⟨mask, u, raw, accept, hscan, hspec⟩ := ((s.addCall .now).setEnv e).scanRow_spec r now
    have hanswers : u.answers = s.answers := hspec.answers
    refine ⟨u.reply (.mask mask), _, mask, exec_scanRow hread hscan, ?_, exec_assemble r mask _, ?_⟩
    · rw [State.reply_answers, hanswers]
    · rw [step_noRequest hreq, State.sequencerStep_scan hphase, State.scanAssemble_of_scanRow hread hscan, hphase, ← hanswers,
        State.assemble, State.reply_cur]
      generalize assembleInto r mask u.cur = ks
      rfl
  · rw [step_noRequest hreq, State.sequencerStep_emit hphase, hphase]
    rfl
  · rw [step_noRequest hreq, State.sequencerStep_commit hphase, hphase]
    rfl

theorem State.sequencerStep_requests (s : State) : s.sequencerStep.requests = s.requests := by
  obtain ⟨r, -, hstep⟩ | ⟨-, hstep⟩ | ⟨-, hstep⟩ := s.sequencerStep_cases
  · obtain ⟨now, raw, accept, hscan⟩ := s.scanAssemble_rowsScanned r
    rw [hstep, State.setPhase_requests, hscan.requests]
  · rw [hstep, State.setPhase_requests, State.emit_requests]
  · rw [hstep, State.setPhase_requests, State.commit, State.setPrev_requests]

/-- A run goes on from where its first step goes. -/
theorem run_succ {M : Host.Core} {s u : M.State} (h : M.step s = .next u) (n : Nat) : M.run (n + 1) s = M.run n u := by
  simp only [Host.Core.run, h]

/-- Stated for any function, so that no step of the machine is unfolded. -/
theorem iterate_six {α : Type} (f : α → α) (a : α) : f^[6] a = f (f (f (f (f (f a))))) := rfl

/-- With no request pending a run is the sequencer's steps one after another. -/
theorem run_noRequest {s : State} (h : s.requests = []) (n : Nat) :
    Host.Core.run core n s = .next (State.sequencerStep^[n] s) := by
  induction n generalizing s with
  | zero => rfl
  | succ n ih => exact (run_succ (M := core) (step_noRequest h) n).trans (ih (s.sequencerStep_requests.trans h))

/-- At SCAN0 six steps of the sequencer are CYCLE's six operations. -/
theorem State.sequencerStep_iterate_six {s : State} (h : s.phase = .scan 0) : State.sequencerStep^[6] s = s.cycle := by
  have hscan {r : RowIdx} {p : Phase} (hp : successor (.scan r) = p) (t : State) :
      (t.setPhase (.scan r)).sequencerStep = (t.scanAssemble r).setPhase p := by
    rw [State.sequencerStep_scan (State.setPhase_phase _ t), State.scanAssemble_setPhase, State.setPhase_setPhase, hp]
  have hemit (t : State) : (t.setPhase .emit).sequencerStep = t.emit.setPhase .commit := by
    rw [State.sequencerStep_emit (State.setPhase_phase _ t), State.emit_setPhase, State.setPhase_setPhase]
  have hcommit (t : State) : (t.setPhase .commit).sequencerStep = t.commit.setPhase (.scan 0) := by
    rw [State.sequencerStep_commit (State.setPhase_phase _ t), State.commit_setPhase, State.setPhase_setPhase]
  have hfirst : successor (.scan 0) = .scan 1 := rfl
  rw [iterate_six, State.sequencerStep_scan h, hfirst, hscan (p := .scan 2) rfl, hscan (p := .scan 3) rfl,
    hscan (p := .emit) rfl, hemit, hcommit, State.cycle_eq]

/-- Settles O11: with no request pending the six steps are the sequencer's. -/
theorem cycleEqualsSixSequencerSteps : Obligations.CycleEqualsSixSequencerSteps := by
  intro s hreq hphase
  exact ⟨s.cycle, exec_cycle hphase, (run_noRequest hreq 6).trans (congrArg _ (State.sequencerStep_iterate_six hphase))⟩

/-! ### What one cycle leaves (R210, R212, R218) -/

/-- A bit given to whatever a switch feeds is fed by every used switch. -/
theorem KeyboardState.map_fedBy (ks : KeyboardState) (k : SwitchIdx) (b : Bool) :
    (ks.fedBy k).map (fun _ => b) = if k = 41 then none else some b := by
  have hunused := ks.fedBy_eq_none_iff k
  cases hfed : ks.fedBy k with
  | none => rw [if_pos (hunused.mp hfed), Option.map_none]
  | some b' => rw [if_neg (by simp [← hunused, hfed]), Option.map_some]

section Rows

variable {rows : List RowIdx} {s u : State} {now : RowIdx → Nat} {raw accept : SwitchIdx → Bool}

/-- Each switch of a scanned row goes once through the gate with its row's reading. -/
theorem RowsScanned.gateUpdate (h : RowsScanned rows s u now raw accept) {k : SwitchIdx} (hk : switchRow k ∈ rows) :
    GateUpdate (raw k) (now (switchRow k)) s.debT[k] s.debRaw[k] s.debStable[k] u.debT[k] u.debRaw[k] u.debStable[k] := by
  have hgate := gateUpdate_gate (h.fits _ hk) (h.accepted k hk)
  rwa [← h.scanned k hk] at hgate

/-- A used switch of a scanned row feeds its stable level. -/
theorem RowsScanned.fedBy (h : RowsScanned rows s u now raw accept) {k : SwitchIdx} (hk : switchRow k ∈ rows) :
    u.cur.fedBy k = if k = 41 then none else some u.debStable[k] := by
  rw [h.cur, if_pos hk, KeyboardState.map_fedBy]

/-- The rows of a scan put no event in the output trace. -/
theorem RowsScanned.trace (h : RowsScanned rows s u now raw accept) : u.trace = s.trace := by
  have hcalls : u.calls = s.calls ++ rows.flatMap fun r => .now :: rowCalls r := h.calls
  have hnow (r : RowIdx) : (Call.now :: rowCalls r).filterMap Call.toEvent = [] := filterMap_toEvent_rowCalls r
  rw [State.trace_of_calls hcalls, List.filterMap_flatMap]
  simp [hnow]

/-- EMIT after the rows emits the edges from the PREV before them. -/
theorem RowsScanned.emitted (h : RowsScanned rows s u now raw accept) : emitted u = emitted { s with cur := u.cur } := by
  rw [emitted_eq, emitted_eq, h.config, h.prev]

theorem RowsScanned.linesInactive (h : RowsScanned (List.finRange 4) s u now raw accept) : u.LinesInactive := by
  intro r
  rw [h.rowLine, if_pos (List.mem_finRange r)]

/-- A switch whose raw level is its stable one keeps the stable level through one scan (R103, R107). -/
theorem RowsScanned.debStable_of_settled (h : RowsScanned rows s u now raw accept) {k : SwitchIdx} (hk : switchRow k ∈ rows)
    (hsettled : s.debRaw[k] = s.debStable[k]) : u.debStable[k] = s.debStable[k] := by
  have hstable : u.debStable[k] = if accept k then raw k else s.debStable[k] :=
    (congrArg DebCell.stable (h.scanned k hk)).trans (gate_stable ..)
  rw [hstable]
  by_cases hraw : raw k = s.debRaw[k]
  · rw [hraw, hsettled, ite_self]
  · rw [h.accepted k hk false (acceptLevel_noteRaw_changed _ (h.fits _ hk) hraw), if_neg Bool.false_ne_true]

end Rows

/-- Settles O48: the rows' scan gives the records, CUR and the lines, EMIT the events, COMMIT PREV. -/
theorem cycleResult : Obligations.CycleResult := by
  intro s hphase
  obtain ⟨t, now, raw, accept, hcycle, hscan⟩ := s.cycle_spec
  have hall (r : RowIdx) : r ∈ List.finRange 4 := List.mem_finRange r
  rw [State.emit_eq_emitted] at hcycle
  refine ⟨now, raw, _, (exec_cycle hphase).trans (congrArg _ hcycle), fun r => hscan.fits r (hall r),
    fun k => hscan.gateUpdate (hall _), fun k => hscan.fedBy (hall _), ?_, ?_, rfl, rfl, hscan.linesInactive, hscan.config,
    hscan.requests, hscan.answers⟩
  · have htrace := t.emit_trace
    rw [hscan.trace, hscan.emitted, State.emit_eq_emitted] at htrace
    exact htrace
  · have hhost := t.emit_hostSet
    rw [hscan.hostSet, hscan.emitted, State.emit_eq_emitted] at hhost
    exact hhost

/-- Settles O50: the rows' calls, then EMIT's. -/
theorem cycleCallOrder : Obligations.CycleCallOrder := by
  intro s hphase
  obtain ⟨t, now, raw, accept, hcycle, hscan⟩ := s.cycle_spec
  refine ⟨s.cycle, emitted t, exec_cycle hphase, ?_⟩
  rw [hcycle, State.setPhase_calls, State.commit, State.setPrev_calls, State.emit_eq_emitted, hscan.calls]

/-- CUR does not change when every switch keeps the stable level that CUR shows. -/
theorem RowsScanned.cur_of_settled {s u : State} {now : RowIdx → Nat} {raw accept : SwitchIdx → Bool}
    (h : RowsScanned (List.finRange 4) s u now raw accept) (hs : s.CurMirrorsStable)
    (hsettled : ∀ k : SwitchIdx, s.debRaw[k] = s.debStable[k]) : u.cur = s.cur := by
  refine keyboardState_ext fun k => ?_
  have hk : switchRow k ∈ List.finRange 4 := List.mem_finRange _
  rw [h.cur, if_pos hk, h.debStable_of_settled hk (hsettled k)]
  cases hb : s.cur.fedBy k with
  | none => rfl
  | some b => rw [hs k b hb, Option.map_some]

/-- With PREV equal to CUR there is no edge to emit (R211). -/
theorem State.emit_of_prev_eq_cur {s : State} (h : s.prev = s.cur) : s.emit = s :=
  Host.Outcome.next.inj (layerToggleEmitsNothing s (congrArg _ h.symm) (congrArg _ h.symm))

/-- A cycle that begins with every switch settled and shown by CUR and PREV emits nothing and leaves them as they are. -/
theorem State.cycle_of_settled {s : State} (hmirror : s.CurMirrorsStable) (hprev : s.prev = s.cur)
    (hsettled : ∀ k : SwitchIdx, s.debRaw[k] = s.debStable[k]) :
    s.cycle.trace = s.trace ∧ s.cycle.hostSet = s.hostSet ∧ s.cycle.cur = s.cur ∧ s.cycle.prev = s.cur ∧
      ∀ k : SwitchIdx, s.cycle.debStable[k] = s.debStable[k] := by
  obtain ⟨t, now, raw, accept, hcycle, hscan⟩ := s.cycle_spec
  have hcur : t.cur = s.cur := hscan.cur_of_settled hmirror hsettled
  have hsame : t.prev = t.cur := hscan.prev.trans (hprev.trans hcur.symm)
  rw [State.emit_of_prev_eq_cur hsame] at hcycle
  rw [hcycle]
  exact ⟨hscan.trace, hscan.hostSet, hcur, hcur, fun k => hscan.debStable_of_settled (List.mem_finRange _) (hsettled k)⟩

/-- Settles O51: at reset every switch is settled and released, whatever the configuration and the environment. -/
theorem firstCycleEmitsNothing : Obligations.FirstCycleEmitsNothing := by
  intro config env
  obtain ⟨hdebounce, -⟩ := resetValues
  have hsettled (k : SwitchIdx) : State.reset.debRaw[k] = State.reset.debStable[k] := by
    obtain ⟨-, hraw, hstable⟩ := hdebounce k
    rw [hraw, hstable]
  obtain ⟨htrace, hhost, hcur, hprev, hstable⟩ :=
    State.cycle_of_settled (s := { State.reset with config := config, env := env }) reset_loopInv.curMirrorsStable rfl hsettled
  refine ⟨_, exec_cycle rfl, htrace, hhost, hcur, hprev, fun k => (hstable k).trans ?_⟩
  obtain ⟨-, -, hreleased⟩ := hdebounce k
  exact hreleased

end Sys2Proof.Machine
end

section
/-! PROOFS. The family 60_exceptions.md: when a step is refused, and HOSTSET, which the block drives and never reads (R230,
R236, R240). -/

namespace Sys2Proof.Machine

open Sys2Proof.Claims

/-! ### When a step is refused (R230, R236) -/

/-- A direct request goes on unless it is CYCLE away from SCAN0. -/
theorem exec_goesOn {i : Instr} {s : State} (h : ¬(i = .cycle ∧ s.phase ≠ .scan 0)) : ∃ u, exec i s = .next u := by
  by_cases hi : i = .cycle
  · subst hi
    have hphase : s.phase = .scan 0 := not_not.mp fun hne => h ⟨rfl, hne⟩
    exact ⟨s.cycle, exec_cycle hphase⟩
  · obtain ⟨u, hexec, -⟩ := exec_setPhase hi s.phase s
    exact ⟨u, hexec⟩

/-- The oldest request is one the block refuses: an illegal word (30_encoding.md R81), or CYCLE's word away from SCAN0
(45_scan_cycle.md R220). -/
def State.OldestRequestRefused (s : State) : Prop :=
  ∃ w rest, s.requests = w :: rest ∧ (legalWord w = false ∨ w = 7#32 ∧ s.phase ≠ .scan 0)

theorem step_refused_of_oldestRequestRefused {s : State} (h : s.OldestRequestRefused) : ∃ r, step s = .refused r := by
  obtain ⟨w, rest, hcons, hillegal | ⟨rfl, hphase⟩⟩ := h
  · obtain ⟨why, hdecode⟩ := decodeWord_refuses_of_not_legal hillegal
    exact ⟨_, step_illegal hcons hdecode⟩
  · have hcycle : decodeWord 7#32 = .ok .cycle := decodeWord_encode .cycle
    exact ⟨_, (step_request hcons hcycle).trans (exec_cycle_refused (s := s.setRequests rest) hphase)⟩

theorem step_goesOn_of_not_oldestRequestRefused {s : State} (h : ¬s.OldestRequestRefused) : ∃ u, step s = .next u := by
  cases hreq : s.requests with
  | nil => exact ⟨_, step_noRequest hreq⟩
  | cons w rest =>
    have hlegal : legalWord w = true := by
      by_contra hillegal
      exact h ⟨w, rest, hreq, .inl (Bool.eq_false_iff.mpr hillegal)⟩
    obtain ⟨i, rfl⟩ := exists_encode_of_legalWord hlegal
    rw [step_request hreq (decodeWord_encode i)]
    refine exec_goesOn fun ⟨hcycle, hphase⟩ => ?_
    subst hcycle
    exact h ⟨_, rest, hreq, .inr ⟨rfl, hphase⟩⟩

/-- Settles O14: a step is refused where the oldest request is one to refuse, and goes on everywhere else. -/
theorem stepStopsOnlyByRefusal : Obligations.StepStopsOnlyByRefusal := by
  intro s
  by_cases h : s.OldestRequestRefused
  · have hrefused := step_refused_of_oldestRequestRefused h
    exact ⟨.inr hrefused, fun _ => h, fun _ => hrefused⟩
  · obtain ⟨u, hnext⟩ := step_goesOn_of_not_oldestRequestRefused h
    refine ⟨.inl ⟨u, hnext⟩, fun ⟨r, hrefused⟩ => ?_, fun hoc => absurd hoc h⟩
    cases hnext.symm.trans hrefused

/-! ### What an event does to HOSTSET (R240) -/

theorem hostAfter_concat (trace : List Event) (e : Event) : hostAfter (trace ++ [e]) = hostAfterEvent e (hostAfter trace) :=
  hostAfter_append trace [e]

theorem mem_hostAfter_press (trace : List Event) (k x : Keycode) :
    x ∈ hostAfter (trace ++ [.press k]) ↔ x = k ∨ x ∈ hostAfter trace := by
  rw [hostAfter_concat]
  exact mem_hostInsert k x _

theorem mem_hostAfter_release (trace : List Event) (k x : Keycode) :
    x ∈ hostAfter (trace ++ [.release k]) ↔ x ≠ k ∧ x ∈ hostAfter trace := by
  rw [hostAfter_concat]
  exact mem_hostErase k x _

theorem hostAfter_hold (trace : List Event) : hostAfter (trace ++ [.hold]) = hostAfter trace :=
  hostAfter_concat trace .hold

/-! ### The block never reads HOSTSET (R240) -/

/-- A row of the cycle does not see an update that leaves CUR to ASSEMBLE alone. -/
theorem Inert.scanAssemble {f : State → State} (hf : Inert f) (hcur : ∀ s, (f s).cur = s.cur)
    (hset : ∀ k s, (f s).setCur k = f (s.setCur k)) (r : RowIdx) (s : State) :
    (f s).scanAssemble r = f (s.scanAssemble r) := by
  simp only [State.scanAssemble, hf.callNow, hf.scanRow, State.assemble, hcur, hset]

theorem State.scanAssemble_setHostSet (host : List Keycode) (r : RowIdx) (s : State) :
    (s.setHostSet host).scanAssemble r = (s.scanAssemble r).setHostSet host :=
  (inert_setHostSet host).scanAssemble (fun _ => rfl) (fun _ _ => rfl) r s

/-- EMIT takes HOSTSET on from where it is, and nothing else of EMIT sees it. -/
theorem State.emit_setHostSet (host : List Keycode) (s : State) :
    ∃ host', (s.setHostSet host).emit = s.emit.setHostSet host' := by
  rw [State.emit_eq, State.emit_eq]
  exact ⟨_, rfl⟩

/-- A CYCLE from another HOSTSET differs in HOSTSET alone. -/
theorem State.cycle_setHostSet (host : List Keycode) (s : State) :
    ∃ host', (s.setHostSet host).cycle = s.cycle.setHostSet host' := by
  rw [State.cycle_eq, State.cycle_eq]
  simp only [State.scanAssemble_setHostSet]
  generalize (((s.scanAssemble 0).scanAssemble 1).scanAssemble 2).scanAssemble 3 = t
  obtain ⟨host', hemit⟩ := t.emit_setHostSet host
  rw [hemit]
  exact ⟨host', rfl⟩

/-- A step of the sequencer from another HOSTSET differs in HOSTSET alone. -/
theorem State.sequencerStep_setHostSet (host : List Keycode) (s : State) :
    ∃ host', (s.setHostSet host).sequencerStep = s.sequencerStep.setHostSet host' := by
  cases hphase : s.phase with
  | scan r =>
    rw [State.sequencerStep_scan hphase, State.sequencerStep_scan (s := s.setHostSet host) hphase,
      State.scanAssemble_setHostSet]
    exact ⟨host, rfl⟩
  | emit =>
    obtain ⟨host', hemit⟩ := s.emit_setHostSet host
    rw [State.sequencerStep_emit hphase, State.sequencerStep_emit (s := s.setHostSet host) hphase, hemit]
    exact ⟨host', rfl⟩
  | commit =>
    rw [State.sequencerStep_commit hphase, State.sequencerStep_commit (s := s.setHostSet host) hphase]
    exact ⟨host, rfl⟩

/-- A direct request from another HOSTSET goes on likewise and differs in HOSTSET alone. -/
theorem exec_setHostSet {i : Instr} {s u : State} (host : List Keycode) (hx : exec i s = .next u) :
    ∃ host', exec i (s.setHostSet host) = .next (u.setHostSet host') := by
  cases i with
  | observe k raw =>
    obtain ⟨v, hv, hv'⟩ := (inert_setHostSet host).exec_observe (fun _ _ => rfl) k raw s
    cases hv.symm.trans hx
    exact ⟨host, hv'⟩
  | scanRow r =>
    obtain ⟨v, hv, hv'⟩ := (inert_setHostSet host).exec_scanRow (fun _ _ => rfl) r s
    cases hv.symm.trans hx
    exact ⟨host, hv'⟩
  | assemble r mask => cases hx; exact ⟨host, rfl⟩
  | resolve l j => cases hx; exact ⟨host, rfl⟩
  | resolveSpecial key l => cases hx; exact ⟨host, rfl⟩
  | emit =>
    obtain ⟨host', hemit⟩ := s.emit_setHostSet host
    cases hx
    exact ⟨host', congrArg Host.Outcome.next hemit⟩
  | commit => cases hx; exact ⟨host, rfl⟩
  | cycle =>
    obtain ⟨host', hcycle⟩ := s.cycle_setHostSet host
    by_cases hphase : s.phase = .scan 0
    · obtain rfl : s.cycle = u := Host.Outcome.next.inj ((exec_cycle hphase).symm.trans hx)
      exact ⟨host', (exec_cycle (s := s.setHostSet host) hphase).trans (congrArg _ hcycle)⟩
    · cases (exec_cycle_refused hphase).symm.trans hx

/-- A step from another HOSTSET goes on likewise and differs in HOSTSET alone. -/
theorem step_setHostSet {s u : State} (host : List Keycode) (h : step s = .next u) :
    ∃ host', step (s.setHostSet host) = .next (u.setHostSet host') := by
  obtain ⟨hnil, rfl⟩ | ⟨w, rest, i, hcons, hdecode, hx⟩ := step_cases h
  · obtain ⟨host', hstep⟩ := s.sequencerStep_setHostSet host
    exact ⟨host', (step_noRequest (s := s.setHostSet host) hnil).trans (congrArg _ hstep)⟩
  · obtain ⟨host', hexec⟩ := exec_setHostSet host hx
    exact ⟨host', (step_request (s := s.setHostSet host) hcons hdecode).trans hexec⟩

/-- Settles O46: event by event on the sink's side, operation by operation on the block's. -/
theorem hostSetIsTheSinksAlone : Obligations.HostSetIsTheSinksAlone := by
  refine ⟨rfl, fun trace k x => ⟨mem_hostAfter_press trace k x, mem_hostAfter_release trace k x, ?_⟩,
    fun s host u => step_setHostSet host⟩
  rw [hostAfter_hold]

end Sys2Proof.Machine
end

section
/-! PROOFS. The family 70_reset_and_hazards.md: how long a level must hold before the running loop shows it in CUR (R254). -/

namespace Sys2Proof.Machine

open Sys2Proof.Claims

/-! ### When one call of the gate takes the level (40_debounce_gate.md R101, R103) -/

section GateUpdate

variable {raw r st r' st' : Bool} {now t t' : Nat}

/-- At a reading not below the stored time, the window alone decides the stable level (R101). -/
theorem gateUpdate_stable (h : GateUpdate raw now t r st t' r' st') (hle : t' ≤ now) :
    st' = if 15 < now - t' then raw else st := by
  obtain ⟨-, -, accept, haccept, hstable⟩ := h
  rw [hstable, haccept hle]
  simp only [decide_eq_true_eq]

/-- A change of the raw level restarts the window, so it is not taken (R103). -/
theorem gateUpdate_stable_of_changed (h : GateUpdate raw now t r st t' r' st') (hraw : raw ≠ r) : st' = st := by
  have ⟨_, htime, _⟩ := h
  rw [if_neg hraw] at htime
  rw [gateUpdate_stable h htime.le, if_neg (by omega)]

/-- A raw level unchanged since the stored time is taken exactly when the window has passed (R101). -/
theorem gateUpdate_stable_of_same (h : GateUpdate raw now t r st t' r' st') (hraw : raw = r) (hle : t ≤ now) :
    st' = if t + 15 < now then raw else st := by
  have ⟨_, htime, _⟩ := h
  rw [if_pos hraw] at htime
  subst htime
  rw [gateUpdate_stable h hle]
  simp only [Nat.lt_sub_iff_add_lt']

end GateUpdate

/-- CUR shows the stable level of every switch but the unused one (10_state.md R26). -/
theorem State.CurMirrorsStable.fedBy {s : State} (h : s.CurMirrorsStable) {k : SwitchIdx} (hk : k ≠ 41) :
    s.cur.fedBy k = some s.debStable[k] := by
  obtain ⟨b, hb⟩ := Option.ne_none_iff_exists'.mp (mt (s.cur.fedBy_eq_none_iff k).mp hk)
  rw [hb, h k b hb]

/-- Settles O52: the cycle's call of the gate decides the stable level, which CUR shows before and after the cycle. -/
theorem debounceLatencyInTheLoop : Obligations.DebounceLatencyInTheLoop := by
  intro s line k hinv hphase hreadings hlevels hk hfits
  obtain ⟨u, hexec, -, -, hgate⟩ := stimulusLineDrivesOneCycle s line hphase hreadings hlevels
  obtain ⟨_, _, v, hexec', -, -, hfed, -⟩ := cycleResult (s.loadLine line) hphase
  obtain rfl : u = v := Host.Outcome.next.inj (hexec.symm.trans hexec')
  have hupdate := hgate k
  rw [Nat.mod_eq_of_lt (hfits _)] at hupdate
  have hafter := hfed k
  rw [if_neg hk] at hafter
  refine ⟨u, hexec, ?_⟩
  rw [hafter, hinv.curMirrorsStable.fedBy hk]
  refine ⟨fun hraw => ?_, fun hraw hheld => ?_, fun hraw hle hwithin => ?_⟩
  · rw [gateUpdate_stable_of_changed hupdate hraw]
  · rw [gateUpdate_stable_of_same hupdate hraw (by omega), if_pos hheld]
  · rw [gateUpdate_stable_of_same hupdate hraw hle, if_neg (by omega)]

end Sys2Proof.Machine
end
